-- ==== Sys2Proof/Word.lean ====
section
/-! DEFINITION. The word types of the block (`00_scope.md` R4, `30_encoding.md` R100). -/

namespace Sys2Proof

/-- A symbol or a buffer byte (`00_scope.md` R4, SYM_BITS = 8). -/
abbrev Byte := BitVec 8

/-- An LZW code (`00_scope.md` R4, CODE_BITS = 16). -/
abbrev Code := BitVec 16

/-- A node id of the arena (`00_scope.md` R4). -/
abbrev NodeId := BitVec 16

/-- A node weight (`00_scope.md` R4, NODE_WEIGHT_BITS = 40). -/
abbrev Weight := BitVec 40

/-- A register, DATA or B field (`30_encoding.md` R101, R102). -/
abbrev Word32 := BitVec 32

/-- A command or response word (`30_encoding.md` R100, R102). -/
abbrev Word64 := BitVec 64

/-- `NIL = 0xFFFF`, "no node" (`00_scope.md` R4). -/
abbrev nilId : NodeId := 0xFFFF

end Sys2Proof
end

