-- ==== Sys2Proof/Syntax.lean ====
section
/-! DEFINITION. The commands, one constructor for each of the 27 rows of `opcode_table.json`, with the operands
of the row's format (`30_encoding.md` R104 to R106). -/

namespace Sys2Proof

/-- A command word taken apart (`30_encoding.md` R106). Every operand is an unsigned field used as it stands
(R105); an address space number stays a number, because one that does not exist is refused by the command's
own rule and not by the decoder (R110). -/
inductive Instr where
  /-- NOP, format Z (`40_system_commands.md` R131). -/
  | nop
  /-- RESET, format Z (R132). -/
  | reset
  /-- RD space, addr, format MR (R133). -/
  | rd (space : BitVec 4) (addr : BitVec 20)
  /-- WR space, addr, data, format MW (R134). -/
  | wr (space : BitVec 4) (addr : BitVec 20) (data : Word32)
  /-- BSS.CLR, format Z (`41_bitstream_serializer.md` R154). -/
  | bssClr
  /-- BSS.APPEND n, bits, format NB (R155). -/
  | bssAppend (n : BitVec 6) (bits : Word32)
  /-- BSS.APPSYM sym, format S (R156). -/
  | bssAppsym (sym : Byte)
  /-- BSS.ENC, format Z (R158). -/
  | bssEnc
  /-- BSS.DEC, format Z (R160). -/
  | bssDec
  /-- BSS.PACK hdr, format F (R163). -/
  | bssPack (hdr : Bool)
  /-- BSS.UNPACK hdr, nbits, format FB (R165). -/
  | bssUnpack (hdr : Bool) (nbits : Word32)
  /-- HTB.CLR, format Z (`42_huffman_tree_builder.md` R190). -/
  | htbClr
  /-- HTB.LOAD sym, weight, format SW (R192). -/
  | htbLoad (sym : Byte) (weight : Word32)
  /-- HTB.COUNT order, format F (R196). -/
  | htbCount (order : Bool)
  /-- HTB.STEP, format Z (R198). -/
  | htbStep
  /-- HTB.ASSIGN, format Z (R202). -/
  | htbAssign
  /-- HTB.BUILD, format Z (R206). -/
  | htbBuild
  /-- LZW.EINIT, format Z (`43_lzw_dict_accumulator.md` R225). -/
  | lzwEinit
  /-- LZW.EBYTE c, format S (R226). -/
  | lzwEbyte (c : Byte)
  /-- LZW.EFLUSH, format Z (R229). -/
  | lzwEflush
  /-- LZW.ENC, format Z (R231). -/
  | lzwEnc
  /-- LZW.DINIT, format Z (R235). -/
  | lzwDinit
  /-- LZW.DCODE k, format K (R236). -/
  | lzwDcode (k : Code)
  /-- LZW.DEC, format Z (R240). -/
  | lzwDec
  /-- FW.ASSIGN, format Z (`44_fixed_width.md` R252). -/
  | fwAssign
  /-- FW.ENC, format Z (R255). -/
  | fwEnc
  /-- FW.DEC, format Z (R258). -/
  | fwDec
  deriving DecidableEq, Repr

end Sys2Proof
end

