-- ==== Sys2Proof/WellFormed.lean ====
section
/-! DEFINITION. Which terms of `Instr` are commands. The widths of the fields are in their types; the one
condition left is that of format FB (`30_encoding.md` R104, R107). -/

namespace Sys2Proof

/-- The condition a command's operands meet beyond their widths: in BSS.UNPACK the B field is zero when
hdr = 1 (`30_encoding.md` R104 format FB, R107). -/
def Instr.wellFormed : Instr → Bool
  | .bssUnpack true nbits => nbits == 0
  | .nop | .reset | .rd _ _ | .wr _ _ _ | .bssClr | .bssAppend _ _ | .bssAppsym _ | .bssEnc | .bssDec
  | .bssPack _ | .bssUnpack false _ | .htbClr | .htbLoad _ _ | .htbCount _ | .htbStep | .htbAssign
  | .htbBuild | .lzwEinit | .lzwEbyte _ | .lzwEflush | .lzwEnc | .lzwDinit | .lzwDcode _ | .lzwDec
  | .fwAssign | .fwEnc | .fwDec => true

end Sys2Proof
end

