-- ==== Sys2Proof/Decode.lean ====
section
/-! DEFINITION. The decoder, total on any 64-bit word, and after it the encoder, both written from
`30_encoding.md` R100 to R109. -/

namespace Sys2Proof

/-- Why a word is no command (`30_encoding.md` R107): an OP that is not one of the 27 values (R108), or a
must-be-zero bit that is 1 (R109). -/
inductive DecodeError where
  | illegalOp
  | badField
  deriving DecidableEq, Repr

/-- OP, word bits 63:56 (`30_encoding.md` R101). -/
def opField (w : Word64) : BitVec 8 := w.extractLsb' 56 8

/-- A, word bits 55:32 (R101). -/
def aField (w : Word64) : BitVec 24 := w.extractLsb' 32 24

/-- B, word bits 31:0 (R101). -/
def bField (w : Word64) : Word32 := w.extractLsb' 0 32

/-- Stage 2 of R107: the command `i` when the must-be-zero bits are zero, else the word is malformed. -/
def whenZero (ok : Bool) (i : Instr) : Except DecodeError Instr :=
  if ok then .ok i else .error .badField

/-- Format Z: A = 0 and B = 0 (R104). -/
def decodeZ (w : Word64) (i : Instr) : Except DecodeError Instr :=
  whenZero (aField w == 0 && bField w == 0) i

/-- Format S: A[23:8] = 0 and B = 0, the symbol or byte in A[7:0] (R104). -/
def decodeS (w : Word64) (mk : Byte → Instr) : Except DecodeError Instr :=
  whenZero ((aField w).extractLsb' 8 16 == 0 && bField w == 0) (mk ((aField w).extractLsb' 0 8))

/-- Format F: A[23:1] = 0 and B = 0, the flag in A[0] (R104). -/
def decodeF (w : Word64) (mk : Bool → Instr) : Except DecodeError Instr :=
  whenZero ((aField w).extractLsb' 1 23 == 0 && bField w == 0) (mk ((aField w).getLsbD 0))

/-- Format MR: B = 0, space in A[23:20], address in A[19:0] (R103, R104). -/
def decodeMR (w : Word64) (mk : BitVec 4 → BitVec 20 → Instr) : Except DecodeError Instr :=
  whenZero (bField w == 0) (mk ((aField w).extractLsb' 20 4) ((aField w).extractLsb' 0 20))

/-- Format MW: space, address and the data word B (R103, R104). -/
def decodeMW (w : Word64) (mk : BitVec 4 → BitVec 20 → Word32 → Instr) : Except DecodeError Instr :=
  whenZero true (mk ((aField w).extractLsb' 20 4) ((aField w).extractLsb' 0 20) (bField w))

/-- Format NB: A[23:6] = 0, the bit count in A[5:0], the bits in B (R104). -/
def decodeNB (w : Word64) (mk : BitVec 6 → Word32 → Instr) : Except DecodeError Instr :=
  whenZero ((aField w).extractLsb' 6 18 == 0) (mk ((aField w).extractLsb' 0 6) (bField w))

/-- Format SW: A[23:8] = 0, the symbol in A[7:0], the weight in B (R104). -/
def decodeSW (w : Word64) (mk : Byte → Word32 → Instr) : Except DecodeError Instr :=
  whenZero ((aField w).extractLsb' 8 16 == 0) (mk ((aField w).extractLsb' 0 8) (bField w))

/-- Format FB: A[23:1] = 0, hdr in A[0], and B = 0 when hdr = 1 (R104, R107). -/
def decodeFB (w : Word64) (mk : Bool → Word32 → Instr) : Except DecodeError Instr :=
  whenZero ((aField w).extractLsb' 1 23 == 0 && (!(aField w).getLsbD 0 || bField w == 0))
    (mk ((aField w).getLsbD 0) (bField w))

/-- Format K: A[23:16] = 0 and B = 0, the LZW code in A[15:0] (R104). -/
def decodeK (w : Word64) (mk : Code → Instr) : Except DecodeError Instr :=
  whenZero ((aField w).extractLsb' 16 8 == 0 && bField w == 0) (mk ((aField w).extractLsb' 0 16))

/-- The decoder (`30_encoding.md` R106 to R109): stage 1 looks OP up, stage 2 checks the format. -/
def decode (w : Word64) : Except DecodeError Instr :=
  match (opField w).toNat with
  | 0x00 => decodeZ w .nop
  | 0x01 => decodeZ w .reset
  | 0x02 => decodeMR w .rd
  | 0x03 => decodeMW w .wr
  | 0x10 => decodeZ w .bssClr
  | 0x11 => decodeNB w .bssAppend
  | 0x12 => decodeS w .bssAppsym
  | 0x13 => decodeZ w .bssEnc
  | 0x14 => decodeZ w .bssDec
  | 0x15 => decodeF w .bssPack
  | 0x16 => decodeFB w .bssUnpack
  | 0x20 => decodeZ w .htbClr
  | 0x21 => decodeSW w .htbLoad
  | 0x22 => decodeF w .htbCount
  | 0x23 => decodeZ w .htbStep
  | 0x24 => decodeZ w .htbAssign
  | 0x25 => decodeZ w .htbBuild
  | 0x30 => decodeZ w .lzwEinit
  | 0x31 => decodeS w .lzwEbyte
  | 0x32 => decodeZ w .lzwEflush
  | 0x33 => decodeZ w .lzwEnc
  | 0x34 => decodeZ w .lzwDinit
  | 0x35 => decodeK w .lzwDcode
  | 0x36 => decodeZ w .lzwDec
  | 0x40 => decodeZ w .fwAssign
  | 0x41 => decodeZ w .fwEnc
  | 0x42 => decodeZ w .fwDec
  | _ => .error .illegalOp

/-- What the decoder reads from an opcode-table word: the table's 64 bits are the command word itself
(`30_encoding.md` R100, `20_memory.md` R86). -/
def decodeTableWord (nbits w : Nat) : Option Instr :=
  match decode (BitVec.ofNat 64 (w % 2 ^ nbits)) with
  | .ok i => some i
  | .error _ => none

/-- A command word from its three fields (`30_encoding.md` R101). -/
def wordOf (op : BitVec 8) (a : BitVec 24) (b : Word32) : Word64 := op ++ a ++ b

/-- A flag as a one-bit field. -/
def flagBit (f : Bool) : BitVec 1 := BitVec.ofBool f

/-- The encoder, from the formats and the opcode map (`30_encoding.md` R101 to R106). -/
def encode : Instr → Word64
  | .nop => wordOf 0x00 0 0
  | .reset => wordOf 0x01 0 0
  | .rd space addr => wordOf 0x02 (space ++ addr) 0
  | .wr space addr data => wordOf 0x03 (space ++ addr) data
  | .bssClr => wordOf 0x10 0 0
  | .bssAppend n bits => wordOf 0x11 ((0 : BitVec 18) ++ n) bits
  | .bssAppsym sym => wordOf 0x12 ((0 : BitVec 16) ++ sym) 0
  | .bssEnc => wordOf 0x13 0 0
  | .bssDec => wordOf 0x14 0 0
  | .bssPack hdr => wordOf 0x15 ((0 : BitVec 23) ++ flagBit hdr) 0
  | .bssUnpack hdr nbits => wordOf 0x16 ((0 : BitVec 23) ++ flagBit hdr) nbits
  | .htbClr => wordOf 0x20 0 0
  | .htbLoad sym weight => wordOf 0x21 ((0 : BitVec 16) ++ sym) weight
  | .htbCount order => wordOf 0x22 ((0 : BitVec 23) ++ flagBit order) 0
  | .htbStep => wordOf 0x23 0 0
  | .htbAssign => wordOf 0x24 0 0
  | .htbBuild => wordOf 0x25 0 0
  | .lzwEinit => wordOf 0x30 0 0
  | .lzwEbyte c => wordOf 0x31 ((0 : BitVec 16) ++ c) 0
  | .lzwEflush => wordOf 0x32 0 0
  | .lzwEnc => wordOf 0x33 0 0
  | .lzwDinit => wordOf 0x34 0 0
  | .lzwDcode k => wordOf 0x35 ((0 : BitVec 8) ++ k) 0
  | .lzwDec => wordOf 0x36 0 0
  | .fwAssign => wordOf 0x40 0 0
  | .fwEnc => wordOf 0x41 0 0
  | .fwDec => wordOf 0x42 0 0

end Sys2Proof
end

