-- ==== Sys2Proof/Machine/Bits.lean ====
section
/-! DEFINITION. Bit sequences and bytes: numbers written as bits (`00_scope.md` R10), packing into bytes
(`41_bitstream_serializer.md` R151) and unpacking (R152). -/

namespace Sys2Proof.Machine

/-- `bits_n(v)`: the n low bits of v, most significant first (`00_scope.md` R10). -/
def bitsOf (n v : Nat) : List Bool := (List.range n).map fun i => v.testBit (n - 1 - i)

/-- `val(s)`: the number whose bits, most significant first, are s (`00_scope.md` R10). -/
def bitsVal (s : List Bool) : Nat := s.foldl (fun acc b => 2 * acc + b.toNat) 0

/-- `ceil(n / 8)` (`00_scope.md` R11). -/
def bytesFor (n : Nat) : Nat := (n + 7) / 8

/-- Byte j of `toBytes(s)`: bits 8j to 8j + 7 of s, most significant first, 0 past its end
(`41_bitstream_serializer.md` R151, `20_memory.md` R84). -/
def byteAt (s : List Bool) (j : Nat) : Byte :=
  BitVec.ofNat 8 (bitsVal ((List.range 8).map fun t => s.getD (8 * j + t) false))

/-- `toBytes(s)` (`41_bitstream_serializer.md` R151). -/
def toBytes (s : List Bool) : List Byte := (List.range (bytesFor s.length)).map (byteAt s)

/-- `fromBytes(buf, n)`: bit i is bit `7 - (i mod 8)` of byte `i div 8` (`41_bitstream_serializer.md` R152). -/
def fromBytes (buf : List Byte) (n : Nat) : List Bool :=
  (List.range n).map fun i => (buf.getD (i / 8) 0).getLsbD (7 - i % 8)

/-- The number a big-endian byte sequence stands for (`20_memory.md` R85). -/
def bigEndian (bs : List Byte) : Nat := bs.foldl (fun acc b => 256 * acc + b.toNat) 0

/-- The four bytes of a 32-bit length, most significant first (`20_memory.md` R85). -/
def lengthHeader (n : Word32) : List Byte :=
  [n.extractLsb' 24 8, n.extractLsb' 16 8, n.extractLsb' 8 8, n.extractLsb' 0 8]

end Sys2Proof.Machine
end

