-- ==== Sys2Proof/Config.lean ====
section
/-! DEFINITION. What an instance of the block fixes: the capacity parameters (`00_scope.md` R5, R6), and
the free values of the cells nothing has written since a reset (`10_state.md` R62). -/

namespace Sys2Proof

/-- The capacity parameters of `00_scope.md` R5. They are carried in `State.cfg`, so that a statement about
every state is a statement about every choice of them (log entry 3). -/
structure Config where
  /-- IBUF_BYTES, the capacity of IBUF in bytes. -/
  ibufBytes : Nat
  /-- OBUF_BYTES, the capacity of OBUF in bytes. -/
  obufBytes : Nat
  /-- BITCAP, the capacity of BITS in bits. -/
  bitcap : Nat
  /-- CBUF_WORDS, the capacity of CBUF in 16-bit words. -/
  cbufWords : Nat
  deriving DecidableEq, Repr

/-- The defaults of `00_scope.md` R5. -/
def Config.default : Config :=
  { ibufBytes := 32768, obufBytes := 65536, bitcap := 262144, cbufWords := 32768 }

/-- The constraints every choice of the parameters meets (`00_scope.md` R6, with DICT_ENTRIES = 65536). -/
abbrev Config.Legal (c : Config) : Prop :=
  1 ≤ c.ibufBytes ∧ c.ibufBytes ≤ 2 ^ 20 ∧ 1 ≤ c.obufBytes ∧ c.obufBytes ≤ 2 ^ 20 ∧
  8 ≤ c.bitcap ∧ c.bitcap ≤ 2 ^ 23 ∧ c.bitcap % 8 = 0 ∧
  1 ≤ c.cbufWords ∧ c.cbufWords ≤ 2 ^ 20 ∧ c.ibufBytes ≤ c.cbufWords ∧
  c.ibufBytes + 256 ≤ 65536 ∧ c.cbufWords + 255 ≤ 65536

/-- FREE VALUE (`10_state.md` R62, log entry 2): what IBUF cell `a` holds after the reset numbered `epoch`
until it is written. It has no body, so nothing in Lean knows it. -/
opaque Config.freeIbuf (epoch a : Nat) : Byte

/-- FREE VALUE (`10_state.md` R62, log entry 2): what CBUF cell `a` holds after the reset numbered `epoch`
until it is written. -/
opaque Config.freeCbuf (epoch a : Nat) : Code

end Sys2Proof
end

