-- ==== Sys2Proof/Machine/State.lean ====
section
/-! DEFINITION. The state of the block as plain data (`10_state.md`), its reset value (R60), and the two types
of reasons a step could stop, of which the first is empty. -/

namespace Sys2Proof.Machine

/-- PHASE (`10_state.md` R33). -/
inductive Phase where
  | load
  | merge
  | built
  deriving DecidableEq, Repr

/-- CB_SRC, who last wrote the codebook (`10_state.md` R42). -/
inductive CbSrc where
  | none
  | huffman
  | host
  | fixed
  deriving DecidableEq, Repr

/-- A record of the node arena (`10_state.md` R34). -/
structure Node where
  weight : Weight
  leaf : Bool
  sym : Byte
  left : NodeId
  right : NodeId
  deriving DecidableEq, Repr

/-- A heap slot, the pair (weight, id) (`10_state.md` R36). -/
structure HeapKey where
  weight : Weight
  id : NodeId
  deriving DecidableEq, Repr

/-- A codebook entry (`10_state.md` R41). -/
structure CbEntry where
  valid : Bool
  len : BitVec 9
  bits : BitVec 256
  deriving DecidableEq, Repr

/-- A stored dictionary entry: the code of the sequence it extends and the byte added (`10_state.md` R48). -/
structure DictEntry where
  prefixCode : Code
  byte : Byte
  deriving DecidableEq, Repr

/-- What the host can do to the block (`70_reset_and_hazards.md` R312, R311): assert the reset input, transfer
a command word, transfer a response word. -/
inductive HostInput where
  | assertReset
  | command (w : Word64)
  | takeResponse
  deriving DecidableEq, Repr

/-- The machine. Every element of `10_state.md` has one home; a length register that measures a sequence
(OLEN, BITLEN, NN, HS, ENEXT, DNEXT) is computed from it. -/
structure State where
  /-- The instance's capacity parameters (`00_scope.md` R5); no step changes them (log entry 3). -/
  cfg : Config
  /-- FAULT (R23). -/
  faulted : Bool
  /-- ERRCODE (R24). -/
  errcode : BitVec 8
  /-- ERRINFO (R25). -/
  errinfo : Word32
  /-- CMDCNT (R27). -/
  cmdcnt : Word32
  /-- IBUF (R28): the cells written since the reset, by rising address (R62, log entry 2). -/
  ibuf : List Host.Cell
  /-- ILEN (R28). -/
  ilen : Word32
  /-- OBUF[0 .. OLEN-1] (R29). -/
  obuf : List Byte
  /-- BITS, first bit first (R30). -/
  bits : List Bool
  /-- CBUF (R31): the words written since the reset, by rising address (R62, log entry 2). -/
  cbuf : List (Nat × Code)
  /-- CLEN (R31). -/
  clen : Word32
  /-- N, the number of leaves (R32). -/
  nleaf : Nat
  /-- NODE[0 .. NN-1] (R34). -/
  nodes : List Node
  /-- HEAP[0 .. HS-1] in array order (R36). -/
  heap : List HeapKey
  /-- PHASE (R33). -/
  phase : Phase
  /-- ROOT (R37). -/
  root : NodeId
  /-- TOTAL (R38). -/
  total : BitVec 64
  /-- TOTBITS (R38). -/
  totbits : BitVec 64
  /-- FW_WIDTH (R39). -/
  fwWidth : BitVec 4
  /-- CB, indexed by symbol (R41). -/
  cb : Vector CbEntry 256
  /-- CB_SRC (R42). -/
  cbSrc : CbSrc
  /-- LZW_CAP (R47). -/
  lzwCap : Word32
  /-- EDICT[256 .. ENEXT-1] (R48). -/
  edict : List DictEntry
  /-- EW (R50). -/
  ew : Option Code
  /-- E_ACTIVE (R50). -/
  eActive : Bool
  /-- DDICT[256 .. DNEXT-1] (R49). -/
  ddict : List DictEntry
  /-- DPREV (R51). -/
  dprev : Option Code
  /-- D_ACTIVE (R51). -/
  dActive : Bool
  /-- How many resets there were: names the free values of the cells not written since (log entry 2). -/
  epoch : Nat
  /-- What the host does next, oldest first (`70_reset_and_hazards.md` R312, log entry 4). -/
  inputs : List HostInput
  /-- The response port: rsp_valid and rsp_data (`70_reset_and_hazards.md` R310, R311). -/
  rsp : Option Word64
  /-- The response words transferred to the host, oldest first (R312, log entry 4). -/
  responses : List Word64
  deriving DecidableEq, Repr

/-- The codebook entry of `10_state.md` R43: valid = 0, len = 0, bits = 0. -/
def CbEntry.cleared : CbEntry := { valid := false, len := 0, bits := 0 }

/-- The state after a hard reset (`10_state.md` R60), with the default parameters of `00_scope.md` R5 and a
host that has nothing to do yet (`70_reset_and_hazards.md` R300, R301). -/
def State.reset : State where
  cfg := Config.default
  faulted := false
  errcode := 0
  errinfo := 0
  cmdcnt := 0
  ibuf := []
  ilen := 0
  obuf := []
  bits := []
  cbuf := []
  clen := 0
  nleaf := 0
  nodes := []
  heap := []
  phase := .load
  root := nilId
  total := 0
  totbits := 0
  fwWidth := 0
  cb := Vector.replicate 256 CbEntry.cleared
  cbSrc := .none
  lzwCap := 65536
  edict := []
  ew := none
  eActive := false
  ddict := []
  dprev := none
  dActive := false
  epoch := 0
  inputs := []
  rsp := none
  responses := []

/-- Why the machine would stop with a fault: never. A FAULT outcome of the spec is a next state with the FAULT
flag set (`60_exceptions.md` R274), every command ends with a response (`70_reset_and_hazards.md` R321), and no
behaviour is `stuck` (`93_implementation_defined.md`, end of part 1). The type has no constructor, so no meaning
can raise one, which is safe. -/
inductive Fault
  deriving DecidableEq, Repr

/-- Why the model would have no meaning for an instruction. -/
inductive Refusal where
  /-- Raised by an arm of `exec` whose instruction has no meaning yet, with its mnemonic. Safe: the model stops
  where the hardware goes on. No arm raises it. -/
  | notModelled (mnemonic : String)
  deriving DecidableEq, Repr

end Sys2Proof.Machine
end

