-- ==== Sys2Proof/Machine/Flags.lean ====
section
/-! DEFINITION. The flags: the STATUS view of them (`10_state.md` R26) and the codes of the outcomes
(`60_exceptions.md` R271). No command computes a flag from a result; a flag changes only where a command's own
rule says so (R26). -/

namespace Sys2Proof.Machine

/-- The 2-bit value of PHASE (`10_state.md` R33). -/
def Phase.value : Phase → BitVec 2
  | .load => 0
  | .merge => 1
  | .built => 2

/-- The 2-bit value of CB_SRC (`10_state.md` R42). -/
def CbSrc.value : CbSrc → BitVec 2
  | .none => 0
  | .huffman => 1
  | .host => 2
  | .fixed => 3

/-- STATUS: bit 0 FAULT, bits 2:1 PHASE, bits 4:3 CB_SRC, bit 5 E_ACTIVE, bit 6 D_ACTIVE, the rest 0
(`10_state.md` R26). -/
def statusWord (s : State) : Word32 :=
  (0 : BitVec 25) ++ BitVec.ofBool s.dActive ++ BitVec.ofBool s.eActive ++ s.cbSrc.value ++ s.phase.value
    ++ BitVec.ofBool s.faulted

/-- The REJECT outcomes (`60_exceptions.md` R271). -/
inductive RejectCode where
  | illegalOp
  | badField
  | faulted
  | state
  | addr
  | badArg
  | dupSym
  | empty
  | badLen
  | capacity
  deriving DecidableEq, Repr

/-- The FAULT outcomes (`60_exceptions.md` R271). -/
inductive FaultCode where
  | lzwBadCode
  | noCode
  | format
  deriving DecidableEq, Repr

/-- The ERR byte of a REJECT (`60_exceptions.md` R271). -/
def RejectCode.byte : RejectCode → BitVec 8
  | .illegalOp => 0x01
  | .badField => 0x02
  | .faulted => 0x03
  | .state => 0x04
  | .addr => 0x05
  | .badArg => 0x06
  | .dupSym => 0x07
  | .empty => 0x08
  | .badLen => 0x09
  | .capacity => 0x0A

/-- The ERR byte of a FAULT (`60_exceptions.md` R271). -/
def FaultCode.byte : FaultCode → BitVec 8
  | .lzwBadCode => 0x80
  | .noCode => 0x81
  | .format => 0x82

end Sys2Proof.Machine
end

