-- ==== Sys2Proof/Machine/Operands.lean ====
section
/-! DEFINITION. The operand forms: address space numbers (`20_memory.md` R70), CSR numbers (`10_state.md` R54),
the fields of a window address, and one-bit flags (`30_encoding.md` R103 to R105). -/

namespace Sys2Proof.Machine

/-- The ten address spaces (`20_memory.md` R70). -/
inductive Space where
  | csr
  | ibuf
  | obuf
  | bbuf
  | cbuf
  | node
  | heap
  | cb
  | edict
  | ddict
  deriving DecidableEq, Repr

/-- The address space a number names; 10 to 15 name none (`20_memory.md` R70). -/
def Space.ofNum (n : BitVec 4) : Option Space :=
  match n.toNat with
  | 0 => some .csr
  | 1 => some .ibuf
  | 2 => some .obuf
  | 3 => some .bbuf
  | 4 => some .cbuf
  | 5 => some .node
  | 6 => some .heap
  | 7 => some .cb
  | 8 => some .edict
  | 9 => some .ddict
  | _ => none

/-- The control and status registers (`10_state.md` R54). -/
inductive Csr where
  | id
  | status
  | errcode
  | errinfo
  | cmdcnt
  | ilen
  | olen
  | bitlen
  | clen
  | lzwCap
  | htbNleaf
  | htbNnode
  | htbHeapsz
  | htbRoot
  | htbTotalLo
  | htbTotalHi
  | htbTotbitsLo
  | htbTotbitsHi
  | fwWidth
  | enext
  | ew
  | dnext
  | dprev
  | capIbuf
  | capObuf
  | capBits
  | capCbuf
  deriving DecidableEq, Repr

/-- The register a CSR number names; 0x1B and above name none (`10_state.md` R54). -/
def Csr.ofNum (n : Nat) : Option Csr :=
  match n with
  | 0x00 => some .id
  | 0x01 => some .status
  | 0x02 => some .errcode
  | 0x03 => some .errinfo
  | 0x04 => some .cmdcnt
  | 0x05 => some .ilen
  | 0x06 => some .olen
  | 0x07 => some .bitlen
  | 0x08 => some .clen
  | 0x09 => some .lzwCap
  | 0x0A => some .htbNleaf
  | 0x0B => some .htbNnode
  | 0x0C => some .htbHeapsz
  | 0x0D => some .htbRoot
  | 0x0E => some .htbTotalLo
  | 0x0F => some .htbTotalHi
  | 0x10 => some .htbTotbitsLo
  | 0x11 => some .htbTotbitsHi
  | 0x12 => some .fwWidth
  | 0x13 => some .enext
  | 0x14 => some .ew
  | 0x15 => some .dnext
  | 0x16 => some .dprev
  | 0x17 => some .capIbuf
  | 0x18 => some .capObuf
  | 0x19 => some .capBits
  | 0x1A => some .capCbuf
  | _ => none

/-- The symbol and the field number of a CB window address `16*sym + f`; none when `addr[19:12]` is not 0 or the
field number is 9 to 15 (`20_memory.md` R75, R82). -/
def cbAddress (addr : BitVec 20) : Option (Byte × Nat) :=
  if addr.toNat / 4096 = 0 ∧ addr.toNat % 16 ≤ 8 then
    some (BitVec.ofNat 8 (addr.toNat / 16), addr.toNat % 16)
  else none

end Sys2Proof.Machine
end

