-- ==== Sys2Proof/Machine/Ops.lean ====
section
/-! DEFINITION. The named operations over the state: buffer cells, the registers that are views, the outcomes of
a command and their recording (`60_exceptions.md` R270 to R276), reset, and the command port. -/

namespace Sys2Proof.Machine

/-! ### Buffer cells -/

/-- The written content of cell `a`; none when nothing has written it since the reset. -/
def Memory.lookup {α : Type} : List (Nat × α) → Nat → Option α
  | [], _ => none
  | (b, v) :: m, a => if b = a then some v else Memory.lookup m a

/-- Cell `a` takes the value `v`; the list stays sorted by address with no repeats. -/
def Memory.insert {α : Type} : List (Nat × α) → Nat → α → List (Nat × α)
  | [], a, v => [(a, v)]
  | (b, w) :: m, a, v =>
    if a < b then (a, v) :: (b, w) :: m
    else if a = b then (a, v) :: m
    else (b, w) :: Memory.insert m a v

/-- The canonical form: addresses strictly rising. An unlisted cell is one nothing has written, which no entry
says, so there is no entry to leave out (log entry 2). -/
abbrev Memory.wf {α : Type} (m : List (Nat × α)) : Prop := m.Pairwise fun x y => x.1 < y.1

/-- `IBUF[a]`: the byte written there, else the free value of the cell (`10_state.md` R28, R62). -/
def State.ibufRead (s : State) (a : Nat) : Byte :=
  (Memory.lookup s.ibuf a).getD (Config.freeIbuf s.epoch a)

/-- `CBUF[a]`: the word written there, else the free value of the cell (`10_state.md` R31, R62). -/
def State.cbufRead (s : State) (a : Nat) : Code :=
  (Memory.lookup s.cbuf a).getD (Config.freeCbuf s.epoch a)

/-- `IBUF[a] <- v` (`20_memory.md` R79). -/
def State.ibufWrite (s : State) (a : Nat) (v : Byte) : State := { s with ibuf := Memory.insert s.ibuf a v }

/-- `CBUF[a] <- v` (`20_memory.md` R79, `43_lzw_dict_accumulator.md` R226). -/
def State.cbufWrite (s : State) (a : Nat) (v : Code) : State := { s with cbuf := Memory.insert s.cbuf a v }

/-- `IBUF[0 .. ILEN-1]`, the input of the commands that consume it (`10_state.md` R28). -/
def State.inputBytes (s : State) : List Byte := (List.range s.ilen.toNat).map s.ibufRead

/-- `CBUF[0 .. CLEN-1]`, the valid codes (`10_state.md` R31). -/
def State.inputCodes (s : State) : List Code := (List.range s.clen.toNat).map s.cbufRead

/-! ### Registers that are views -/

/-- OLEN (`10_state.md` R29). -/
def State.olen (s : State) : Nat := s.obuf.length

/-- BITLEN (`10_state.md` R30). -/
def State.bitlen (s : State) : Nat := s.bits.length

/-- ENEXT, the next code of the encoder's dictionary and its size (`10_state.md` R48). -/
def State.enext (s : State) : Nat := 256 + s.edict.length

/-- DNEXT, the same of the decoder's dictionary (`10_state.md` R49). -/
def State.dnext (s : State) : Nat := 256 + s.ddict.length

/-- A length or count as a 32-bit register or DATA value. -/
def word32 (n : Nat) : Word32 := BitVec.ofNat 32 n

/-! ### The codebook -/

/-- `CB[sym]` (`10_state.md` R41). -/
def cbEntry (cb : Vector CbEntry 256) (sym : Byte) : CbEntry := cb[sym.toNat]'sym.isLt

/-- `CB[sym] <- e`. -/
def cbSet (cb : Vector CbEntry 256) (sym : Byte) (e : CbEntry) : Vector CbEntry 256 := cb.set sym.toNat e sym.isLt

/-- Every entry invalid (`10_state.md` R43). -/
def cbCleared : Vector CbEntry 256 := Vector.replicate 256 CbEntry.cleared

/-- `code(sym)`: none when the entry is not valid, else its `len` low container bits, most significant first
(`10_state.md` R45). -/
def codeOf (cb : Vector CbEntry 256) (sym : Byte) : Option (List Bool) :=
  if (cbEntry cb sym).valid then some (bitsOf (cbEntry cb sym).len.toNat (cbEntry cb sym).bits.toNat) else none

/-- The codes of a byte sequence one after the other; a byte with no code contributes nothing
(`41_bitstream_serializer.md` R158, `44_fixed_width.md` R255). -/
def encodeBytes (cb : Vector CbEntry 256) (input : List Byte) : List Bool :=
  input.flatMap fun c => (codeOf cb c).getD []

/-! ### Outcomes -/

/-- What a command's own rule ends in (`60_exceptions.md` R270): SUCCESS with the new state and DATA, REJECT with
a code and no state, FAULT with the state kept, the code and the information word. -/
inductive CmdResult where
  | success (t : State) (data : Word32)
  | reject (code : RejectCode)
  | fault (t : State) (code : FaultCode) (info : Word32)

/-- A response word `{ERR, 0, DATA}` (`30_encoding.md` R102). -/
def responseWord (err : BitVec 8) (data : Word32) : Word64 := err ++ (0 : BitVec 24) ++ data

/-- The end of every command but RESET (`40_system_commands.md` R130 step 5): CMDCNT counts the command
(`10_state.md` R27) and the response port presents the response word. -/
def State.answer (s : State) (err : BitVec 8) (data : Word32) : State :=
  { s with cmdcnt := s.cmdcnt + 1, rsp := some (responseWord err data) }

/-- A REJECT is recorded: ERRCODE and ERRINFO, unless FAULT has frozen them (`60_exceptions.md` R273 (a)). -/
def State.recordReject (s : State) (code : RejectCode) : State :=
  if s.faulted then s else { s with errcode := code.byte, errinfo := 0 }

/-- A FAULT is taken: the flag latches and the code and information word are recorded (`60_exceptions.md` R274
(b)). It is all there is of an exception entry in this block, and only a reset undoes it (R279, R281). -/
def State.takeFault (s : State) (code : FaultCode) (info : Word32) : State :=
  { s with faulted := true, errcode := code.byte, errinfo := info }

/-- The outcome of a command is recorded and answered; a REJECT starts again from the state `s` before the command
(`40_system_commands.md` R130 steps 4 and 5, `60_exceptions.md` R273, R274). -/
def finish (s : State) : CmdResult → State
  | .success t data => t.answer 0 data
  | .reject code => (s.recordReject code).answer code.byte 0
  | .fault t code info => (t.takeFault code info).answer code.byte info

/-- A command that is accepted while FAULT = 1 (NOP and RD, `60_exceptions.md` R276). -/
def runUngated (rule : State → CmdResult) (s : State) : Host.Outcome State Fault Refusal :=
  .next (finish s (rule s))

/-- A command behind the fault gate (`60_exceptions.md` R276). -/
def runGated (rule : State → CmdResult) (s : State) : Host.Outcome State Fault Refusal :=
  .next (finish s (if s.faulted then .reject .faulted else rule s))

/-! ### Reset -/

/-- What the reset input and the RESET command make of the state (`10_state.md` R60, R61): every element at its
reset value, and the unwritten cells with new free values (R62). The parameters stay, and so do the host's
own next inputs and the responses it has taken; a response not yet taken is discarded (`70_reset_and_hazards.md`
R300). -/
def State.afterReset (s : State) : State :=
  { State.reset with cfg := s.cfg, epoch := s.epoch + 1, inputs := s.inputs, responses := s.responses }

/-! ### The command port (`70_reset_and_hazards.md` R310, R311) -/

/-- cmd_ready: the block can take a command word. -/
def State.cmdReady (s : State) : Bool := s.rsp.isNone

/-- rsp_valid: the block presents a response word. -/
def State.rspValid (s : State) : Bool := s.rsp.isSome

/-- The response word presented, if any, is transferred to the host. -/
def State.transferResponse (s : State) : State := { s with rsp := none, responses := s.responses ++ s.rsp.toList }

/-- What the host's next input asks of the block, and the state once the input is consumed. -/
inductive Fetched where
  /-- The host does nothing. -/
  | idle
  /-- The reset input is asserted. -/
  | resetInput (t : State)
  /-- A response word is transferred. -/
  | responseTaken (t : State)
  /-- A command word is accepted. -/
  | command (w : Word64) (t : State)

/-- The host's next input. A command word is transferred only when the block is idle, that is when every earlier
response has been transferred, so that transfer comes first (`70_reset_and_hazards.md` R311, log entry 4). -/
def fetch (s : State) : Fetched :=
  match s.inputs with
  | [] => .idle
  | .assertReset :: rest => .resetInput { s with inputs := rest }
  | .takeResponse :: rest => .responseTaken (State.transferResponse { s with inputs := rest })
  | .command w :: rest => .command w (State.transferResponse { s with inputs := rest })

/-- The host presents the command word `w` next. -/
def State.presentWord (s : State) (w : Word64) : State := { s with inputs := .command w :: s.inputs }

end Sys2Proof.Machine
end

