-- ==== Sys2Proof/Machine/Bss.lean ====
section
/-! DEFINITION. The bitstream serializer commands (`41_bitstream_serializer.md` R154 to R165). -/

namespace Sys2Proof.Machine

/-- BSS.CLR (`41_bitstream_serializer.md` R154). -/
def execBssClr (s : State) : Host.Outcome State Fault Refusal :=
  runGated (fun s => .success { s with bits := [] } 0) s

/-- Bits are appended to the stream, or the command is refused because they do not fit
(`41_bitstream_serializer.md` R155 to R158). -/
def appendBits (add : List Bool) (s : State) : CmdResult :=
  if s.bitlen + add.length > s.cfg.bitcap then .reject .capacity
  else .success { s with bits := s.bits ++ add } (word32 (s.bits ++ add).length)

/-- The rule of BSS.APPEND (`41_bitstream_serializer.md` R155). -/
def bssAppendRule (n : BitVec 6) (bits : Word32) (s : State) : CmdResult :=
  if n.toNat = 0 ∨ n.toNat > 32 then .reject .badArg else appendBits (bitsOf n.toNat bits.toNat) s

/-- BSS.APPEND (`41_bitstream_serializer.md` R155). -/
def execBssAppend (n : BitVec 6) (bits : Word32) (s : State) : Host.Outcome State Fault Refusal :=
  runGated (bssAppendRule n bits) s

/-- The rule of BSS.APPSYM (`41_bitstream_serializer.md` R156). -/
def bssAppsymRule (sym : Byte) (s : State) : CmdResult :=
  match codeOf s.cb sym with
  | none => .success s (word32 s.bitlen)
  | some c => appendBits c s

/-- BSS.APPSYM (`41_bitstream_serializer.md` R156). -/
def execBssAppsym (sym : Byte) (s : State) : Host.Outcome State Fault Refusal := runGated (bssAppsymRule sym) s

/-- BSS.ENC (`41_bitstream_serializer.md` R158). -/
def execBssEnc (s : State) : Host.Outcome State Fault Refusal :=
  runGated (fun s => appendBits (encodeBytes s.cb s.inputBytes) s) s

/-- The 256 symbols in ascending order. -/
def allSymbols : List Byte := (List.range 256).map (BitVec.ofNat 8)

/-- `min(M)`: the least symbol whose code is exactly the accumulated bits, if there is one
(`41_bitstream_serializer.md` R160). -/
def matchSymbol (cb : Vector CbEntry 256) (acc : List Bool) : Option Byte :=
  allSymbols.find? fun sym => codeOf cb sym == some acc

/-- How a walk over a bit stream ends: with its output, at bits that match nothing, or with OBUF full. -/
inductive DecodeEnd where
  | done (out : List Byte)
  | noCode (out : List Byte) (start : Nat)
  | full
  deriving DecidableEq, Repr

/-- The loop of BSS.DEC from bit number i on (`41_bitstream_serializer.md` R160). -/
def bssDecLoop (cb : Vector CbEntry 256) (cap : Nat) :
    List Bool → (i : Nat) → (acc : List Bool) → (start : Nat) → (out : List Byte) → DecodeEnd
  | [], _, acc, start, out => if acc.isEmpty then .done out else .noCode out start
  | b :: rest, i, acc, start, out =>
    match matchSymbol cb (acc ++ [b]) with
    | none => bssDecLoop cb cap rest (i + 1) (acc ++ [b]) start out
    | some sym => if out.length = cap then .full else bssDecLoop cb cap rest (i + 1) [] (i + 1) (out ++ [sym])

/-- The output of a walk is stored, or the command refused, or the fault raised with the output so far
(`41_bitstream_serializer.md` R160, `44_fixed_width.md` R258). -/
def storeDecoded (s : State) : DecodeEnd → CmdResult
  | .done out => .success { s with obuf := out } (word32 out.length)
  | .noCode out start => .fault { s with obuf := out } .noCode (word32 start)
  | .full => .reject .capacity

/-- BSS.DEC (`41_bitstream_serializer.md` R160). -/
def execBssDec (s : State) : Host.Outcome State Fault Refusal :=
  runGated (fun s => storeDecoded s (bssDecLoop s.cb s.cfg.obufBytes s.bits 0 [] 0 [])) s

/-- What BSS.PACK puts into OBUF (`41_bitstream_serializer.md` R163, R164). -/
def packed (hdr : Bool) (bits : List Bool) : List Byte :=
  (if hdr then lengthHeader (word32 bits.length) else []) ++ toBytes bits

/-- The rule of BSS.PACK (`41_bitstream_serializer.md` R163). -/
def bssPackRule (hdr : Bool) (s : State) : CmdResult :=
  if (packed hdr s.bits).length > s.cfg.obufBytes then .reject .capacity
  else .success { s with obuf := packed hdr s.bits } (word32 (packed hdr s.bits).length)

/-- BSS.PACK (`41_bitstream_serializer.md` R163). -/
def execBssPack (hdr : Bool) (s : State) : Host.Outcome State Fault Refusal := runGated (bssPackRule hdr) s

/-- The second half of BSS.UNPACK: n bits from the input bytes that follow the first `off`
(`41_bitstream_serializer.md` R165). -/
def unpackBits (n off : Nat) (s : State) : CmdResult :=
  if n > s.cfg.bitcap then .reject .capacity
  else if s.ilen.toNat ≠ off + bytesFor n then .reject .badLen
  else .success { s with bits := fromBytes (s.inputBytes.drop off) n } (word32 n)

/-- The rule of BSS.UNPACK (`41_bitstream_serializer.md` R165). -/
def bssUnpackRule (hdr : Bool) (nbits : Word32) (s : State) : CmdResult :=
  if hdr then
    if s.ilen.toNat < 4 then .reject .badLen else unpackBits (bigEndian (s.inputBytes.take 4)) 4 s
  else unpackBits nbits.toNat 0 s

/-- BSS.UNPACK (`41_bitstream_serializer.md` R165). -/
def execBssUnpack (hdr : Bool) (nbits : Word32) (s : State) : Host.Outcome State Fault Refusal :=
  runGated (bssUnpackRule hdr nbits) s

end Sys2Proof.Machine
end

