-- ==== Sys2Proof/Machine/Heap.lean ====
section
/-! DEFINITION. The priority structure: an array binary min-heap (`42_huffman_tree_builder.md` R181 to R183). -/

namespace Sys2Proof.Machine

/-- The key order: by weight, then by id (`42_huffman_tree_builder.md` R181). -/
def HeapKey.lt (a b : HeapKey) : Bool :=
  decide (a.weight < b.weight) || (a.weight == b.weight && decide (a.id < b.id))

/-- `HEAP[i] < HEAP[j]`; false when a slot is not in use. -/
def heapLess (h : List HeapKey) (i j : Nat) : Bool :=
  match h[i]?, h[j]? with
  | some a, some b => a.lt b
  | _, _ => false

/-- `swap HEAP[i] and HEAP[j]`. -/
def heapSwap (h : List HeapKey) (i j : Nat) : List HeapKey :=
  match h[i]?, h[j]? with
  | some a, some b => (h.set i b).set j a
  | _, _ => h

/-- The loop of `heap_push` (`42_huffman_tree_builder.md` R182); each turn at least halves i, so i turns are
enough. -/
def siftUp : Nat → List HeapKey → Nat → List HeapKey
  | 0, h, _ => h
  | fuel + 1, h, i =>
    if i = 0 then h
    else if heapLess h i ((i - 1) / 2) then siftUp fuel (heapSwap h i ((i - 1) / 2)) ((i - 1) / 2)
    else h

/-- `heap_push(k)` (`42_huffman_tree_builder.md` R182). -/
def heapPush (h : List HeapKey) (k : HeapKey) : List HeapKey := siftUp h.length (h ++ [k]) h.length

/-- The index of the least of slot i and its children, the left child looked at first
(`42_huffman_tree_builder.md` R183). -/
def leastChild (h : List HeapKey) (i : Nat) : Nat :=
  let m := if heapLess h (2 * i + 1) i then 2 * i + 1 else i
  if heapLess h (2 * i + 2) m then 2 * i + 2 else m

/-- The loop of `heap_pop` (`42_huffman_tree_builder.md` R183); each turn moves to a child, so as many turns as
there are slots are enough. -/
def siftDown : Nat → List HeapKey → Nat → List HeapKey
  | 0, h, _ => h
  | fuel + 1, h, i =>
    if leastChild h i = i then h else siftDown fuel (heapSwap h i (leastChild h i)) (leastChild h i)

/-- `heap_pop()` (`42_huffman_tree_builder.md` R183): the key of slot 0 and the heap without it; none when the heap
is empty, where the rule never calls it. -/
def heapPop : List HeapKey → Option (HeapKey × List HeapKey)
  | [] => none
  | r :: tail =>
    match tail.getLast? with
    | none => some (r, [])
    | some last => some (r, siftDown tail.length (last :: tail.dropLast) 0)

end Sys2Proof.Machine
end

