-- ==== Sys2Proof/Machine/Htb.lean ====
section
/-! DEFINITION. The Huffman tree builder commands (`42_huffman_tree_builder.md` R190 to R206). -/

namespace Sys2Proof.Machine

/-- The state changes of HTB.CLR (`42_huffman_tree_builder.md` R190). -/
def State.clearTable (s : State) : State :=
  { s with nleaf := 0, nodes := [], heap := [], phase := .load, root := nilId, cb := cbCleared, cbSrc := .none,
           total := 0, totbits := 0, fwWidth := 0 }

/-- HTB.CLR (`42_huffman_tree_builder.md` R190). -/
def execHtbClr (s : State) : Host.Outcome State Fault Refusal := runGated (fun s => .success s.clearTable 0) s

/-- A leaf record (`10_state.md` R34). -/
def leafNode (sym : Byte) (weight : Weight) : Node :=
  { weight := weight, leaf := true, sym := sym, left := nilId, right := nilId }

/-- A symbol with its count becomes the next leaf, and its key goes into the heap
(`42_huffman_tree_builder.md` R192, R196). -/
def State.addLeaf (s : State) (sym : Byte) (weight : Weight) : State :=
  { s with nodes := s.nodes ++ [leafNode sym weight], nleaf := s.nleaf + 1,
           heap := heapPush s.heap { weight := weight, id := BitVec.ofNat 16 s.nleaf } }

/-- The rule of HTB.LOAD (`42_huffman_tree_builder.md` R192). -/
def htbLoadRule (sym : Byte) (weight : Word32) (s : State) : CmdResult :=
  if s.phase ≠ .load then .reject .state
  else if (s.nodes.take s.nleaf).any (fun n => n.sym == sym) then .reject .dupSym
  else .success (s.addLeaf sym (weight.setWidth 40)) (word32 s.nleaf)

/-- HTB.LOAD (`42_huffman_tree_builder.md` R192). -/
def execHtbLoad (sym : Byte) (weight : Word32) (s : State) : Host.Outcome State Fault Refusal :=
  runGated (htbLoadRule sym weight) s

/-- The symbols that occur in the input in the order HTB.COUNT loads them: ascending, or by descending count with
equal counts ascending (`42_huffman_tree_builder.md` R196). -/
def countOrder (order : Bool) (input : List Byte) : List Byte :=
  let occurring := ((List.range 256).map (BitVec.ofNat 8)).filter fun sym => decide (0 < input.count sym)
  if order then occurring.insertionSort fun a b => input.count b ≤ input.count a else occurring

/-- The rule of HTB.COUNT (`42_huffman_tree_builder.md` R196). -/
def htbCountRule (order : Bool) (s : State) : CmdResult :=
  let input := s.inputBytes
  let t := (countOrder order input).foldl (fun t sym => t.addLeaf sym (BitVec.ofNat 40 (input.count sym))) s.clearTable
  .success t (word32 t.nleaf)

/-- HTB.COUNT (`42_huffman_tree_builder.md` R196). -/
def execHtbCount (order : Bool) (s : State) : Host.Outcome State Fault Refusal := runGated (htbCountRule order) s

/-- The internal node that joins x, extracted first, and y, extracted second (`42_huffman_tree_builder.md` R198). -/
def joinNode (x y : HeapKey) : Node :=
  { weight := x.weight + y.weight, leaf := false, sym := 0, left := x.id, right := y.id }

/-- The state changes of HTB.STEP (`42_huffman_tree_builder.md` R198). With fewer than two keys there is no merge;
the rule is never used there. -/
def State.mergeOnce (s : State) : State :=
  match heapPop s.heap with
  | none => s
  | some (x, h) =>
    match heapPop h with
    | none => s
    | some (y, h') =>
      { s with nodes := s.nodes ++ [joinNode x y],
               heap := heapPush h' { weight := x.weight + y.weight, id := BitVec.ofNat 16 s.nodes.length },
               phase := .merge }

/-- The rule of HTB.STEP (`42_huffman_tree_builder.md` R198). -/
def htbStepRule (s : State) : CmdResult :=
  if s.phase = .built then .reject .state
  else if s.heap.length < 2 then .reject .state
  else .success s.mergeOnce (word32 s.nodes.length)

/-- HTB.STEP (`42_huffman_tree_builder.md` R198). -/
def execHtbStep (s : State) : Host.Outcome State Fault Refusal := runGated htbStepRule s

/-- `path(target)` seen from node n: the bits taken from n down to the node `target`, 0 into `left`, 1 into
`right`; none when it is not below n (`42_huffman_tree_builder.md` R202). No chain has more nodes than the arena,
so its length is fuel enough. -/
def pathTo (nodes : List Node) : Nat → Nat → Nat → Option (List Bool)
  | 0, _, _ => none
  | fuel + 1, n, target =>
    if n = target then some []
    else
      match nodes[n]? with
      | none => none
      | some nd =>
        if nd.leaf then none
        else
          match pathTo nodes fuel nd.left.toNat target with
          | some p => some (false :: p)
          | none => (pathTo nodes fuel nd.right.toNat target).map (true :: ·)

/-- The bits of leaf i's code: its path from the root, or the one bit 0 when it is the only leaf
(`42_huffman_tree_builder.md` R202, R203). -/
def leafPath (nodes : List Node) (nleaf : Nat) (root : NodeId) (i : Nat) : List Bool :=
  if nleaf = 1 then [false] else (pathTo nodes nodes.length root.toNat i).getD []

/-- A valid codebook entry for a bit sequence: `(valid = 1, len = len(p), bits = val(p))`
(`42_huffman_tree_builder.md` R202). -/
def entryFor (p : List Bool) : CbEntry :=
  { valid := true, len := BitVec.ofNat 9 p.length, bits := BitVec.ofNat 256 (bitsVal p) }

/-- The codebook that gives leaf number i the bits `path i`, every other symbol no code
(`42_huffman_tree_builder.md` R202, `44_fixed_width.md` R252). -/
def assignCodes (leaves : List Node) (path : Nat → List Bool) : Vector CbEntry 256 :=
  leaves.zipIdx.foldl (fun cb p => cbSet cb p.1.sym (entryFor (path p.2))) cbCleared

/-- `Σ weight` over the leaves (`42_huffman_tree_builder.md` R204). -/
def leafTotal (leaves : List Node) : Nat := (leaves.map fun n => n.weight.toNat).sum

/-- `Σ weight * len(code(sym))` over the leaves (`42_huffman_tree_builder.md` R204). -/
def leafTotbits (leaves : List Node) (cb : Vector CbEntry 256) : Nat :=
  (leaves.map fun n => n.weight.toNat * (cbEntry cb n.sym).len.toNat).sum

/-- The leaf table, nodes 0 to N-1 (`10_state.md` R35). -/
def State.leaves (s : State) : List Node := s.nodes.take s.nleaf

/-- The id of the key in heap slot 0 (`42_huffman_tree_builder.md` R202). -/
def State.heapTop (s : State) : NodeId :=
  match s.heap with
  | [] => nilId
  | k :: _ => k.id

/-- The state changes of HTB.ASSIGN (`42_huffman_tree_builder.md` R202 to R204). -/
def State.assignHuffman (s : State) : State :=
  let cb := assignCodes s.leaves (leafPath s.nodes s.nleaf s.heapTop)
  { s with root := s.heapTop, cb := cb, total := BitVec.ofNat 64 (leafTotal s.leaves),
           totbits := BitVec.ofNat 64 (leafTotbits s.leaves cb), cbSrc := .huffman, fwWidth := 0, phase := .built }

/-- The rule of HTB.ASSIGN (`42_huffman_tree_builder.md` R202). -/
def htbAssignRule (s : State) : CmdResult :=
  if s.phase = .built then .reject .state
  else if s.nleaf = 0 then .reject .empty
  else if s.heap.length ≠ 1 then .reject .state
  else .success s.assignHuffman (s.heapTop.setWidth 32)

/-- HTB.ASSIGN (`42_huffman_tree_builder.md` R202). -/
def execHtbAssign (s : State) : Host.Outcome State Fault Refusal := runGated htbAssignRule s

/-- `while HS > 1` one merge after another (`42_huffman_tree_builder.md` R206); each merge takes one key out of the
heap, so HS turns are enough. -/
def State.mergeAll : Nat → State → State
  | 0, s => s
  | fuel + 1, s => if s.heap.length > 1 then State.mergeAll fuel s.mergeOnce else s

/-- The rule of HTB.BUILD (`42_huffman_tree_builder.md` R206). -/
def htbBuildRule (s : State) : CmdResult :=
  if s.phase = .built then .reject .state
  else if s.nleaf = 0 then .reject .empty
  else
    let t := (State.mergeAll s.heap.length s).assignHuffman
    .success t (t.root.setWidth 32)

/-- HTB.BUILD (`42_huffman_tree_builder.md` R206). -/
def execHtbBuild (s : State) : Host.Outcome State Fault Refusal := runGated htbBuildRule s

end Sys2Proof.Machine
end

