-- ==== Sys2Proof/Machine/Fw.lean ====
section
/-! DEFINITION. The fixed-width coder commands (`44_fixed_width.md` R251 to R258). -/

namespace Sys2Proof.Machine

/-- The least b from the given one on with `2^b >= n`, looked for at most `fuel` times. -/
def clog2From : Nat → Nat → Nat → Nat
  | 0, b, _ => b
  | fuel + 1, b, n => if n ≤ 2 ^ b then b else clog2From fuel (b + 1) n

/-- `clog2(n)`: the least b with `2^b >= n` (`00_scope.md` R11). -/
def clog2 (n : Nat) : Nat := clog2From n 0 n

/-- The code width of a table of n symbols, `max(1, clog2(n))` (`44_fixed_width.md` R251). -/
def codeWidth (n : Nat) : Nat := max 1 (clog2 n)

/-- The state changes of FW.ASSIGN (`44_fixed_width.md` R252, R253). -/
def State.assignFixed (s : State) : State :=
  let b := codeWidth s.nleaf
  { s with cb := assignCodes s.leaves (bitsOf b), total := BitVec.ofNat 64 (leafTotal s.leaves),
           totbits := BitVec.ofNat 64 (leafTotal s.leaves * b), cbSrc := .fixed, fwWidth := BitVec.ofNat 4 b,
           phase := .built }

/-- The rule of FW.ASSIGN (`44_fixed_width.md` R252). -/
def fwAssignRule (s : State) : CmdResult :=
  if s.phase ≠ .load then .reject .state
  else if s.nleaf = 0 then .reject .empty
  else .success s.assignFixed (word32 (codeWidth s.nleaf))

/-- FW.ASSIGN (`44_fixed_width.md` R252). -/
def execFwAssign (s : State) : Host.Outcome State Fault Refusal := runGated fwAssignRule s

/-- The padding that makes prefix, data and padding whole bytes (`44_fixed_width.md` R255, R257). -/
def padFor (d : Nat) : Nat := (8 - (3 + d) % 8) % 8

/-- A fixed-width stream: the 3-bit padding count, the data, the zero padding (`44_fixed_width.md` R255). -/
def framed (data : List Bool) : List Bool :=
  bitsOf 3 (padFor data.length) ++ data ++ List.replicate (padFor data.length) false

/-- The rule of FW.ENC (`44_fixed_width.md` R255). -/
def fwEncRule (s : State) : CmdResult :=
  if s.cbSrc ≠ .fixed then .reject .state
  else
    let stream := framed (encodeBytes s.cb s.inputBytes)
    if stream.length > s.cfg.bitcap then .reject .capacity
    else .success { s with bits := stream } (word32 stream.length)

/-- FW.ENC (`44_fixed_width.md` R255). -/
def execFwEnc (s : State) : Host.Outcome State Fault Refusal := runGated fwEncRule s

/-- The chunk loop of FW.DEC: `count` chunks of b bits from bit `pos` on (`44_fixed_width.md` R258). -/
def fwDecLoop (leaves : List Node) (bits : List Bool) (b cap : Nat) :
    (count : Nat) → (pos : Nat) → (out : List Byte) → DecodeEnd
  | 0, _, out => .done out
  | count + 1, pos, out =>
    match leaves[bitsVal ((bits.drop pos).take b)]? with
    | none => .noCode out pos
    | some n => if out.length = cap then .full else fwDecLoop leaves bits b cap count (pos + b) (out ++ [n.sym])

/-- The FAULT for a stream that is not framed (`44_fixed_width.md` R258). -/
def badFormat (s : State) : CmdResult := .fault { s with obuf := [] } .format 0

/-- The rule of FW.DEC (`44_fixed_width.md` R258). -/
def fwDecRule (s : State) : CmdResult :=
  let b := s.fwWidth.toNat
  let pad := bitsVal (s.bits.take 3)
  let d := s.bitlen - 3 - pad
  if s.cbSrc ≠ .fixed then .reject .state
  else if s.bitlen < 3 then badFormat s
  else if s.bitlen < 3 + pad then badFormat s
  else if d % b ≠ 0 then badFormat s
  else storeDecoded s (fwDecLoop s.leaves s.bits b s.cfg.obufBytes (d / b) 3 [])

/-- FW.DEC (`44_fixed_width.md` R258). -/
def execFwDec (s : State) : Host.Outcome State Fault Refusal := runGated fwDecRule s

end Sys2Proof.Machine
end

