-- ==== Sys2Proof/Machine/Dict.lean ====
section
/-! DEFINITION. The dictionaries (`10_state.md` R48, R52; `43_lzw_dict_accumulator.md` R222, R223). An instance is
the list of its stored entries; entry number i has code 256 + i. -/

namespace Sys2Proof.Machine

/-- The byte sequence a code stands for, following at most `fuel` prefixes (`10_state.md` R52). -/
def dictString (d : List DictEntry) : Nat → Code → List Byte
  | 0, _ => []
  | fuel + 1, k =>
    if k.toNat < 256 then [k.setWidth 8]
    else
      match d[k.toNat - 256]? with
      | none => []
      | some e => dictString d fuel e.prefixCode ++ [e.byte]

/-- `estr(k)` or `dstr(k)` (`10_state.md` R52). A prefix is a smaller code, so no chain has more links than there
are entries, and one turn for the single byte at its end. -/
def codeString (d : List DictEntry) (k : Code) : List Byte := dictString d (d.length + 1) k

/-- `efind(w, c)`: the code of the stored entry (w, c), or none (`43_lzw_dict_accumulator.md` R222). -/
def dictFind (d : List DictEntry) (w : Code) (c : Byte) : Option Code :=
  (d.findIdx? fun e => e.prefixCode == w && e.byte == c).map fun i => BitVec.ofNat 16 (256 + i)

/-- The growth-cap rule: an entry is added exactly when NEXT < LZW_CAP (`43_lzw_dict_accumulator.md` R223). -/
def dictAdd (cap : Word32) (d : List DictEntry) (e : DictEntry) : List DictEntry :=
  if 256 + d.length < cap.toNat then d ++ [e] else d

end Sys2Proof.Machine
end

