-- ==== Sys2Proof/Machine/Lzw.lean ====
section
/-! DEFINITION. The LZW dictionary accumulator commands (`43_lzw_dict_accumulator.md` R225 to R240). -/

namespace Sys2Proof.Machine

/-- The state changes of LZW.EINIT (`43_lzw_dict_accumulator.md` R225). -/
def State.encoderInit (s : State) : State := { s with edict := [], ew := none, clen := 0, eActive := true }

/-- LZW.EINIT (`43_lzw_dict_accumulator.md` R225). -/
def execLzwEinit (s : State) : Host.Outcome State Fault Refusal := runGated (fun s => .success s.encoderInit 0) s

/-- "emit the code": `CBUF[CLEN] <- e; CLEN <- CLEN + 1` (`43_lzw_dict_accumulator.md` R226, R229). -/
def State.emitCode (s : State) (e : Code) : State :=
  { s.cbufWrite s.clen.toNat e with clen := s.clen + 1 }

/-- The response to an emitted code: `{0[31:17], 1, e[15:0]}` (`43_lzw_dict_accumulator.md` R226). -/
def emittedWord (e : Code) : Word32 := (1 : BitVec 16) ++ e

/-- The code LZW.EBYTE must emit for byte c: the current match when it cannot be extended
(`43_lzw_dict_accumulator.md` R226). -/
def State.mustEmit (s : State) (c : Byte) : Option Code :=
  s.ew.bind fun w => if (dictFind s.edict w c).isNone then some w else none

/-- The state changes of LZW.EBYTE (`43_lzw_dict_accumulator.md` R226): the match starts, is extended, or is
emitted, extended by c as a new entry under the cap (R223), and reset to c. -/
def State.encodeByte (s : State) (c : Byte) : State :=
  match s.ew with
  | none => { s with ew := some (c.setWidth 16) }
  | some w =>
    match dictFind s.edict w c with
    | some k => { s with ew := some k }
    | none =>
      { s.emitCode w with edict := dictAdd s.lzwCap s.edict { prefixCode := w, byte := c },
                          ew := some (c.setWidth 16) }

/-- The rule of LZW.EBYTE (`43_lzw_dict_accumulator.md` R226). -/
def lzwEbyteRule (c : Byte) (s : State) : CmdResult :=
  if s.eActive = false then .reject .state
  else
    match s.mustEmit c with
    | none => .success (s.encodeByte c) 0
    | some e => if s.clen.toNat = s.cfg.cbufWords then .reject .capacity else .success (s.encodeByte c) (emittedWord e)

/-- LZW.EBYTE (`43_lzw_dict_accumulator.md` R226). -/
def execLzwEbyte (c : Byte) (s : State) : Host.Outcome State Fault Refusal := runGated (lzwEbyteRule c) s

/-- The state changes of LZW.EFLUSH (`43_lzw_dict_accumulator.md` R229). -/
def State.encoderFlush (s : State) : State :=
  match s.ew with
  | none => { s with eActive := false }
  | some e => { s.emitCode e with ew := none, eActive := false }

/-- The rule of LZW.EFLUSH (`43_lzw_dict_accumulator.md` R229). -/
def lzwEflushRule (s : State) : CmdResult :=
  if s.eActive = false then .reject .state
  else
    match s.ew with
    | none => .success s.encoderFlush 0
    | some e => if s.clen.toNat = s.cfg.cbufWords then .reject .capacity else .success s.encoderFlush (emittedWord e)

/-- LZW.EFLUSH (`43_lzw_dict_accumulator.md` R229). -/
def execLzwEflush (s : State) : Host.Outcome State Fault Refusal := runGated lzwEflushRule s

/-- The rule of LZW.ENC (`43_lzw_dict_accumulator.md` R231). It has no refusal of its own (R232). -/
def lzwEncRule (s : State) : CmdResult :=
  let t := (s.inputBytes.foldl State.encodeByte s.encoderInit).encoderFlush
  .success t t.clen

/-- LZW.ENC (`43_lzw_dict_accumulator.md` R231). -/
def execLzwEnc (s : State) : Host.Outcome State Fault Refusal := runGated lzwEncRule s

/-- The state changes of LZW.DINIT (`43_lzw_dict_accumulator.md` R235). -/
def State.decoderInit (s : State) : State := { s with ddict := [], dprev := none, obuf := [], dActive := true }

/-- LZW.DINIT (`43_lzw_dict_accumulator.md` R235). -/
def execLzwDinit (s : State) : Host.Outcome State Fault Refusal := runGated (fun s => .success s.decoderInit 0) s

/-- `first(x)`; the sequence is never empty (`00_scope.md` R9, `10_state.md` R52). -/
def firstByte (x : List Byte) : Byte := x.headD 0

/-- The sequence code k stands for after the code `p`: a known entry, or in the self-referential special case
`w ++ [first(w)]`, or none for a bad code (`43_lzw_dict_accumulator.md` R236, R237). -/
def State.decoderEntry (s : State) (p k : Code) : Option (List Byte) :=
  if k.toNat < s.dnext then some (codeString s.ddict k)
  else if k.toNat = s.dnext ∧ s.dnext < s.lzwCap.toNat then
    some (codeString s.ddict p ++ [firstByte (codeString s.ddict p)])
  else none

/-- "emit entry": the bytes go to OBUF, k becomes the previous code, and `d` the dictionary
(`43_lzw_dict_accumulator.md` R236). -/
def emitEntry (s : State) (entry : List Byte) (d : List DictEntry) (k : Code) : CmdResult :=
  if s.olen + entry.length > s.cfg.obufBytes then .reject .capacity
  else .success { s with obuf := s.obuf ++ entry, ddict := d, dprev := some k } (word32 entry.length)

/-- The rule of LZW.DCODE after its E_STATE check (`43_lzw_dict_accumulator.md` R236). -/
def decodeCode (k : Code) (s : State) : CmdResult :=
  match s.dprev with
  | none =>
    if k.toNat ≥ 256 then .fault s .lzwBadCode (k.setWidth 32) else emitEntry s [k.setWidth 8] s.ddict k
  | some p =>
    match s.decoderEntry p k with
    | none => .fault s .lzwBadCode (k.setWidth 32)
    | some entry =>
      emitEntry s entry (dictAdd s.lzwCap s.ddict { prefixCode := p, byte := firstByte entry }) k

/-- The rule of LZW.DCODE (`43_lzw_dict_accumulator.md` R236). -/
def lzwDcodeRule (k : Code) (s : State) : CmdResult :=
  if s.dActive = false then .reject .state else decodeCode k s

/-- LZW.DCODE (`43_lzw_dict_accumulator.md` R236). -/
def execLzwDcode (k : Code) (s : State) : Host.Outcome State Fault Refusal := runGated (lzwDcodeRule k) s

/-- The loop of LZW.DEC from code number j on (`43_lzw_dict_accumulator.md` R240): a fault carries the index, and a
refusal refuses the whole command. -/
def decodeCodes : List Code → (j : Nat) → State → CmdResult
  | [], _, s => .success { s with dActive := false } (word32 s.olen)
  | k :: ks, j, s =>
    match decodeCode k s with
    | .success t _ => decodeCodes ks (j + 1) t
    | .reject code => .reject code
    | .fault t code _ => .fault t code (word32 j)

/-- LZW.DEC (`43_lzw_dict_accumulator.md` R240). -/
def execLzwDec (s : State) : Host.Outcome State Fault Refusal :=
  runGated (fun s => decodeCodes s.inputCodes 0 s.decoderInit) s

end Sys2Proof.Machine
end

