-- ==== Sys2Proof/Machine/Windows.lean ====
section
/-! DEFINITION. `MemRead` and `MemWrite` over the ten address spaces (`20_memory.md` R70 to R83) and the registers
of space 0 (`10_state.md` R54). -/

namespace Sys2Proof.Machine

/-- A match register as software reads it: `{0[31:17], valid, code[15:0]}` (`10_state.md` R54, EW and DPREV). -/
def matchWord (k : Option Code) : Word32 :=
  match k with
  | none => 0
  | some c => (1 : BitVec 16) ++ c

/-- The content of a control and status register (`10_state.md` R54). -/
def csrRead (s : State) : Csr → Word32
  | .id => 0x48544231
  | .status => statusWord s
  | .errcode => s.errcode.setWidth 32
  | .errinfo => s.errinfo
  | .cmdcnt => s.cmdcnt
  | .ilen => s.ilen
  | .olen => word32 s.olen
  | .bitlen => word32 s.bitlen
  | .clen => s.clen
  | .lzwCap => s.lzwCap
  | .htbNleaf => word32 s.nleaf
  | .htbNnode => word32 s.nodes.length
  | .htbHeapsz => word32 s.heap.length
  | .htbRoot => s.root.setWidth 32
  | .htbTotalLo => s.total.extractLsb' 0 32
  | .htbTotalHi => s.total.extractLsb' 32 32
  | .htbTotbitsLo => s.totbits.extractLsb' 0 32
  | .htbTotbitsHi => s.totbits.extractLsb' 32 32
  | .fwWidth => s.fwWidth.setWidth 32
  | .enext => word32 s.enext
  | .ew => matchWord s.ew
  | .dnext => word32 s.dnext
  | .dprev => matchWord s.dprev
  | .capIbuf => word32 s.cfg.ibufBytes
  | .capObuf => word32 s.cfg.obufBytes
  | .capBits => word32 s.cfg.bitcap
  | .capCbuf => word32 s.cfg.cbufWords

/-- Field word f of a node record (`20_memory.md` R80). -/
def nodeWord (n : Node) (f : Nat) : Word32 :=
  match f with
  | 0 => n.weight.extractLsb' 0 32
  | 1 => (n.weight.extractLsb' 32 8).setWidth 32
  | 2 => n.right ++ n.left
  | _ => (0 : BitVec 23) ++ BitVec.ofBool n.leaf ++ n.sym

/-- Field word f of a heap slot (`20_memory.md` R81). -/
def heapWord (k : HeapKey) (f : Nat) : Word32 :=
  match f with
  | 0 => k.weight.extractLsb' 0 32
  | _ => k.id ++ (0 : BitVec 8) ++ k.weight.extractLsb' 32 8

/-- Field word f of a codebook entry (`20_memory.md` R82). -/
def cbWord (e : CbEntry) (f : Nat) : Word32 :=
  match f with
  | 0 => BitVec.ofBool e.valid ++ (0 : BitVec 22) ++ e.len
  | f + 1 => e.bits.extractLsb' (32 * f) 32

/-- The container with its 32 bits from bit 32*f on replaced (`20_memory.md` R82). -/
def replaceContainerWord (bits : BitVec 256) (f : Nat) (v : Word32) : BitVec 256 :=
  (bits &&& ~~~(((0xFFFFFFFF : Word32).setWidth 256) <<< (32 * f))) ||| ((v.setWidth 256) <<< (32 * f))

/-- The word of dictionary code k; none at NEXT and above (`20_memory.md` R83). -/
def dictWord (d : List DictEntry) (k : Nat) : Option Word32 :=
  if k < 256 then some ((0 : BitVec 8) ++ (BitVec.ofNat 8 k) ++ nilId)
  else d[k - 256]?.map fun e => (0 : BitVec 8) ++ e.byte ++ e.prefixCode

/-- `MemRead(SPACE, addr)`: the element zero-extended to 32 bits, none when the address does not exist
(`20_memory.md` R73, R77 to R83). -/
def memRead (s : State) (sp : Space) (addr : BitVec 20) : Option Word32 :=
  let a := addr.toNat
  match sp with
  | .csr => (Csr.ofNum a).map (csrRead s)
  | .ibuf => if a < s.cfg.ibufBytes then some ((s.ibufRead a).setWidth 32) else none
  | .obuf => s.obuf[a]?.map fun b => b.setWidth 32
  | .bbuf => if a < bytesFor s.bitlen then some ((byteAt s.bits a).setWidth 32) else none
  | .cbuf => if a < s.cfg.cbufWords then some ((s.cbufRead a).setWidth 32) else none
  | .node => s.nodes[a / 4]?.map fun n => nodeWord n (a % 4)
  | .heap => s.heap[a / 2]?.map fun k => heapWord k (a % 2)
  | .cb => (cbAddress addr).map fun p => cbWord (cbEntry s.cb p.1) p.2
  | .edict => dictWord s.edict a
  | .ddict => dictWord s.ddict a

/-- A write of a register (`20_memory.md` R74, R76). -/
def csrWrite (s : State) (r : Csr) (v : Word32) : Except RejectCode State :=
  match r with
  | .ilen => if v.toNat ≤ s.cfg.ibufBytes then .ok { s with ilen := v } else .error .badArg
  | .clen => if v.toNat ≤ s.cfg.cbufWords then .ok { s with clen := v } else .error .badArg
  | .lzwCap =>
    if s.eActive || s.dActive then .error .state
    else if v.toNat < 256 ∨ v.toNat > 65536 then .error .badArg
    else .ok { s with lzwCap := v }
  | .id | .status | .errcode | .errinfo | .cmdcnt | .olen | .bitlen | .htbNleaf | .htbNnode | .htbHeapsz
  | .htbRoot | .htbTotalLo | .htbTotalHi | .htbTotbitsLo | .htbTotbitsHi | .fwWidth | .enext | .ew | .dnext
  | .dprev | .capIbuf | .capObuf | .capBits | .capCbuf => .error .addr

/-- The entry after a write of its field word f; none when the data is refused (`20_memory.md` R82). -/
def cbEntryWrite (e : CbEntry) (f : Nat) (v : Word32) : Option CbEntry :=
  match f with
  | 0 =>
    if v.extractLsb' 9 22 ≠ 0 ∨ (v.extractLsb' 0 9).toNat > 255 ∨ (v.getLsbD 31 = true ∧ v.extractLsb' 0 9 = 0) then
      none
    else some { e with valid := v.getLsbD 31, len := v.extractLsb' 0 9 }
  | f + 1 => some { e with bits := replaceContainerWord e.bits f v }

/-- A write into the CB window; it makes the host the codebook's writer (`20_memory.md` R82). -/
def cbWindowWrite (s : State) (sym : Byte) (f : Nat) (v : Word32) : Except RejectCode State :=
  match cbEntryWrite (cbEntry s.cb sym) f v with
  | none => .error .badArg
  | some e => .ok { s with cb := cbSet s.cb sym e, cbSrc := .host, fwWidth := 0 }

/-- `MemWrite(SPACE, addr, v)` (`20_memory.md` R74, R76, R79, R82). -/
def memWrite (s : State) (sp : Space) (addr : BitVec 20) (v : Word32) : Except RejectCode State :=
  let a := addr.toNat
  match sp with
  | .csr =>
    match Csr.ofNum a with
    | none => .error .addr
    | some r => csrWrite s r v
  | .ibuf =>
    if a < s.cfg.ibufBytes then
      if v.toNat ≤ 0xFF then .ok (s.ibufWrite a (v.setWidth 8)) else .error .badArg
    else .error .addr
  | .cbuf =>
    if a < s.cfg.cbufWords then
      if v.toNat ≤ 0xFFFF then .ok (s.cbufWrite a (v.setWidth 16)) else .error .badArg
    else .error .addr
  | .cb =>
    match cbAddress addr with
    | none => .error .addr
    | some p => cbWindowWrite s p.1 p.2 v
  | .obuf | .bbuf | .node | .heap | .edict | .ddict => .error .addr

end Sys2Proof.Machine
end

