-- ==== Sys2Proof/Machine/System.lean ====
section
/-! DEFINITION. The system commands NOP, RESET, RD, WR (`40_system_commands.md` R131 to R134), and
the refusal of a malformed word. -/

namespace Sys2Proof.Machine

/-- The REJECT a malformed word ends in (`30_encoding.md` R107 to R109). -/
def malformedCode : DecodeError → RejectCode
  | .illegalOp => .illegalOp
  | .badField => .badField

/-- A malformed word is refused and nothing else happens; decoding comes before the fault gate
(`30_encoding.md` R108, R109, `60_exceptions.md` R277). -/
def execMalformed (e : DecodeError) (s : State) : Host.Outcome State Fault Refusal :=
  runUngated (fun _ => .reject (malformedCode e)) s

/-- NOP (`40_system_commands.md` R131). -/
def execNop (s : State) : Host.Outcome State Fault Refusal := runUngated (fun s => .success s 0) s

/-- RESET (`40_system_commands.md` R132): the reset state, with the command's own count suppressed, answered with
the response word 0. -/
def execReset (s : State) : Host.Outcome State Fault Refusal :=
  .next { s.afterReset with rsp := some (responseWord 0 0) }

/-- The rule of RD (`40_system_commands.md` R133). -/
def rdRule (space : BitVec 4) (addr : BitVec 20) (s : State) : CmdResult :=
  match (Space.ofNum space).bind fun sp => memRead s sp addr with
  | none => .reject .addr
  | some v => .success s v

/-- RD (`40_system_commands.md` R133). -/
def execRd (space : BitVec 4) (addr : BitVec 20) (s : State) : Host.Outcome State Fault Refusal :=
  runUngated (rdRule space addr) s

/-- The rule of WR (`40_system_commands.md` R134). -/
def wrRule (space : BitVec 4) (addr : BitVec 20) (data : Word32) (s : State) : CmdResult :=
  match Space.ofNum space with
  | none => .reject .addr
  | some sp =>
    match memWrite s sp addr data with
    | .error code => .reject code
    | .ok t => .success t 0

/-- WR (`40_system_commands.md` R134). -/
def execWr (space : BitVec 4) (addr : BitVec 20) (data : Word32) (s : State) : Host.Outcome State Fault Refusal :=
  runGated (wrRule space addr data) s

end Sys2Proof.Machine
end

