-- ==== Sys2Proof/Machine/Dispatch.lean ====
section
/-! DEFINITION. One arm per command: each calls the command's own meaning. -/

namespace Sys2Proof.Machine

/-- A decoded command runs (`40_system_commands.md` R130 steps 2 to 5). -/
def exec (i : Instr) (s : State) : Host.Outcome State Fault Refusal :=
  match i with
  | .nop => Sys2Proof.Machine.execNop s
  | .reset => Sys2Proof.Machine.execReset s
  | .rd space addr => Sys2Proof.Machine.execRd space addr s
  | .wr space addr data => Sys2Proof.Machine.execWr space addr data s
  | .bssClr => Sys2Proof.Machine.execBssClr s
  | .bssAppend n bits => Sys2Proof.Machine.execBssAppend n bits s
  | .bssAppsym sym => Sys2Proof.Machine.execBssAppsym sym s
  | .bssEnc => Sys2Proof.Machine.execBssEnc s
  | .bssDec => Sys2Proof.Machine.execBssDec s
  | .bssPack hdr => Sys2Proof.Machine.execBssPack hdr s
  | .bssUnpack hdr nbits => Sys2Proof.Machine.execBssUnpack hdr nbits s
  | .htbClr => Sys2Proof.Machine.execHtbClr s
  | .htbLoad sym weight => Sys2Proof.Machine.execHtbLoad sym weight s
  | .htbCount order => Sys2Proof.Machine.execHtbCount order s
  | .htbStep => Sys2Proof.Machine.execHtbStep s
  | .htbAssign => Sys2Proof.Machine.execHtbAssign s
  | .htbBuild => Sys2Proof.Machine.execHtbBuild s
  | .lzwEinit => Sys2Proof.Machine.execLzwEinit s
  | .lzwEbyte c => Sys2Proof.Machine.execLzwEbyte c s
  | .lzwEflush => Sys2Proof.Machine.execLzwEflush s
  | .lzwEnc => Sys2Proof.Machine.execLzwEnc s
  | .lzwDinit => Sys2Proof.Machine.execLzwDinit s
  | .lzwDcode k => Sys2Proof.Machine.execLzwDcode k s
  | .lzwDec => Sys2Proof.Machine.execLzwDec s
  | .fwAssign => Sys2Proof.Machine.execFwAssign s
  | .fwEnc => Sys2Proof.Machine.execFwEnc s
  | .fwDec => Sys2Proof.Machine.execFwDec s

end Sys2Proof.Machine
end

