-- ==== Sys2Proof/Machine/Step.lean ====
section
/-! DEFINITION. One step: the block takes the host's next input (`70_reset_and_hazards.md` R312). -/

namespace Sys2Proof.Machine

/-- One step (`40_system_commands.md` R130, `70_reset_and_hazards.md` R300, R311, R312): an idle block holds its
state (`30_encoding.md` R118), the reset input resets it, a response is transferred, or a command word is decoded
and run, a malformed one being refused. -/
def step (s : State) : Host.Outcome State Fault Refusal :=
  match fetch s with
  | .idle => .next s
  | .resetInput t => .next t.afterReset
  | .responseTaken t => .next t
  | .command w t =>
    match decode w with
    | .ok i => exec i t
    | .error e => execMalformed e t

/-- `s` with the opcode-table word `w` of `nbits` bits as the command word the host presents next. The block fetches
no program: a run is the list of words the host presents (`10_state.md` R21, log entry 4). -/
def State.withFetchWord (s : State) (nbits w : Nat) : State :=
  s.presentWord (BitVec.ofNat 64 (w % 2 ^ nbits))

end Sys2Proof.Machine
end

