-- ==== Sys2Proof/Safety.lean ====
section
/-! DEFINITION. The terms claims use: the invariants of the block (`10_state.md` R28 to R53), the frame of a
command (`70_reset_and_hazards.md` R313), and what a response says. A safe run of this block is one whose states
meet `Inv`; no step can stop (`60_exceptions.md` R270), so nothing else is asked of it. -/

namespace Sys2Proof.Machine

/-! ### Buffers -/

/-- The buffers and their lengths stay inside the capacities, and the written cells are listed in canonical form
(`00_scope.md` R6, `10_state.md` R28 to R31). -/
abbrev BuffersFit (s : State) : Prop :=
  s.cfg.Legal ∧
  Memory.wf s.ibuf ∧ (∀ c ∈ s.ibuf, c.1 < s.cfg.ibufBytes) ∧
  Memory.wf s.cbuf ∧ (∀ c ∈ s.cbuf, c.1 < s.cfg.cbufWords) ∧
  s.ilen.toNat ≤ s.cfg.ibufBytes ∧ s.clen.toNat ≤ s.cfg.cbufWords ∧
  s.obuf.length ≤ s.cfg.obufBytes ∧ s.bits.length ≤ s.cfg.bitcap

/-! ### The tree builder -/

/-- No key is less than its parent's key (`10_state.md` R40 (f)). -/
abbrev HeapOrdered (h : List HeapKey) : Prop := ∀ i, i < h.length → heapLess h i ((i - 1) / 2) = false

/-- The nodes before N are leaves with distinct symbols and 32-bit counts, the nodes from N on are not leaves
(`10_state.md` R32, R34, R35). -/
abbrev LeavesOk (s : State) : Prop :=
  s.nleaf ≤ s.nodes.length ∧
  (∀ n ∈ s.leaves, n.leaf = true ∧ n.left = nilId ∧ n.right = nilId ∧ n.weight.toNat < 2 ^ 32) ∧
  (s.leaves.map Node.sym).Nodup ∧
  (∀ n ∈ s.nodes.drop s.nleaf, n.leaf = false ∧ n.sym = 0)

/-- The counts of each phase, the root, and TOTAL (`10_state.md` R37, R38, R40 (a) to (d)). -/
abbrev CountsOk (s : State) : Prop :=
  (s.phase = .load →
    s.nodes.length = s.nleaf ∧ s.heap.length = s.nleaf ∧ s.root = nilId ∧ s.total = 0 ∧ s.totbits = 0) ∧
  (s.phase = .merge →
    s.nleaf < s.nodes.length ∧ s.heap.length + s.nodes.length = 2 * s.nleaf ∧ 1 ≤ s.heap.length ∧ s.root = nilId ∧
    s.total = 0 ∧ s.totbits = 0) ∧
  (s.phase = .built →
    1 ≤ s.nleaf ∧ s.total.toNat = leafTotal s.leaves ∧
    ((s.root = nilId ∧ s.nodes.length = s.nleaf ∧ s.heap.length = s.nleaf) ∨
     (s.heap.length = 1 ∧ s.nodes.length + 1 = 2 * s.nleaf ∧ s.root = BitVec.ofNat 16 (s.nodes.length - 1) ∧
      s.heapTop = s.root)))

/-- The ids of the children of the internal nodes. -/
def childIds (nodes : List Node) : List NodeId := nodes.flatMap fun n => if n.leaf then [] else [n.left, n.right]

/-- The weight of the node with an id. -/
def weightOf (nodes : List Node) (id : NodeId) : Option Weight := nodes[id.toNat]?.map Node.weight

/-- Every node is either in the heap, with its weight, or the child of exactly one internal node; a child has a
smaller id than its parent, and a parent the exact sum of its children's weights; the heap holds all the weight
there is (`10_state.md` R34, R40 (e), (g)). -/
abbrev ForestOk (s : State) : Prop :=
  (s.heap.map HeapKey.id ++ childIds s.nodes).Perm ((List.range s.nodes.length).map (BitVec.ofNat 16)) ∧
  (∀ k ∈ s.heap, weightOf s.nodes k.id = some k.weight) ∧
  (∀ p ∈ s.nodes.zipIdx, p.1.leaf = false →
    p.1.left.toNat < p.2 ∧ p.1.right.toNat < p.2 ∧
    p.1.weight.toNat = ((weightOf s.nodes p.1.left).getD 0).toNat + ((weightOf s.nodes p.1.right).getD 0).toNat) ∧
  (s.heap.map fun k => k.weight.toNat).sum = leafTotal s.leaves

/-- The invariant of the tree builder (`10_state.md` R40). -/
abbrev BuilderOk (s : State) : Prop := LeavesOk s ∧ CountsOk s ∧ ForestOk s

/-! ### The codebook -/

/-- No code is the beginning of another symbol's code (`10_state.md` R46). -/
abbrev PrefixFree (cb : Vector CbEntry 256) : Prop :=
  ∀ a b : Byte, a ≠ b → ∀ p ∈ codeOf cb a, ∀ q ∈ codeOf cb b, ¬ p <+: q

/-- Every length is at most 255, and a valid entry has at least one bit (`10_state.md` R41, R45). -/
abbrev CodeLengthsOk (cb : Vector CbEntry 256) : Prop :=
  ∀ e ∈ cb.toList, e.len.toNat ≤ 255 ∧ (e.valid = true → 1 ≤ e.len.toNat)

/-- What CB_SRC says of the codebook, FW_WIDTH and the table (`10_state.md` R39, R42, R43, R46). -/
abbrev CodebookOk (s : State) : Prop :=
  CodeLengthsOk s.cb ∧
  (s.cbSrc = .none → s.cb = cbCleared) ∧
  (s.cbSrc = .huffman → s.phase = .built ∧ s.root ≠ nilId ∧ PrefixFree s.cb) ∧
  (s.cbSrc = .fixed →
    s.phase = .built ∧ s.root = nilId ∧ s.fwWidth.toNat = codeWidth s.nleaf ∧
    s.cb = assignCodes s.leaves (bitsOf (codeWidth s.nleaf))) ∧
  (s.cbSrc ≠ .fixed → s.fwWidth = 0)

/-! ### The dictionaries -/

/-- Every code has 16 bits and every prefix is a smaller code (`10_state.md` R48, R49). -/
abbrev DictOk (d : List DictEntry) : Prop :=
  256 + d.length ≤ 65536 ∧ ∀ p ∈ d.zipIdx, p.1.prefixCode.toNat < 256 + p.2

/-- No two codes of the instance stand for the same byte sequence (`10_state.md` R53 (a)). -/
abbrev SequencesDistinct (d : List DictEntry) : Prop :=
  ∀ j k : Code, j.toNat < 256 + d.length → k.toNat < 256 + d.length → j ≠ k → codeString d j ≠ codeString d k

/-- A match register is empty or holds a code below NEXT (`10_state.md` R50, R51). -/
abbrev MatchOk (d : List DictEntry) (k : Option Code) : Prop := ∀ c ∈ k, c.toNat < 256 + d.length

/-- The invariant of the LZW state (`10_state.md` R47 to R51, R53). That no pair is stored twice, from which R53 (a)
follows, is asked of EDICT; of DDICT R236 contradicts it on some lists of codes, and the model follows R236
(log entry 10). -/
abbrev LzwOk (s : State) : Prop :=
  256 ≤ s.lzwCap.toNat ∧ s.lzwCap.toNat ≤ 65536 ∧
  DictOk s.edict ∧ s.edict.Nodup ∧ MatchOk s.edict s.ew ∧
  DictOk s.ddict ∧ MatchOk s.ddict s.dprev ∧
  (s.eActive = true → s.enext ≤ s.lzwCap.toNat) ∧ (s.dActive = true → s.dnext ≤ s.lzwCap.toNat) ∧
  (s.eActive = false → s.ew = none)

/-- All the invariants together: what a state of a safe run meets. -/
abbrev Inv (s : State) : Prop :=
  BuffersFit s ∧ HeapOrdered s.heap ∧ BuilderOk s ∧ CodebookOk s ∧ LzwOk s

/-! ### Words and inputs -/

/-- A row of `opcode_table.json`: its stage-1 opcode, its mask and its match (`30_encoding.md` R107). -/
structure OpcodeRow where
  op : BitVec 8
  mask : Word64
  bits : Word64
  deriving DecidableEq, Repr

/-- The 27 rows of `opcode_table.json`, copied from it. -/
def opcodeTable : List OpcodeRow :=
  [
   ⟨0x00, 0xFFFFFFFFFFFFFFFF, 0x0000000000000000⟩,
   ⟨0x01, 0xFFFFFFFFFFFFFFFF, 0x0100000000000000⟩,
   ⟨0x02, 0xFF000000FFFFFFFF, 0x0200000000000000⟩,
   ⟨0x03, 0xFF00000000000000, 0x0300000000000000⟩,
   ⟨0x10, 0xFFFFFFFFFFFFFFFF, 0x1000000000000000⟩,
   ⟨0x11, 0xFFFFFFC000000000, 0x1100000000000000⟩,
   ⟨0x12, 0xFFFFFF00FFFFFFFF, 0x1200000000000000⟩,
   ⟨0x13, 0xFFFFFFFFFFFFFFFF, 0x1300000000000000⟩,
   ⟨0x14, 0xFFFFFFFFFFFFFFFF, 0x1400000000000000⟩,
   ⟨0x15, 0xFFFFFFFEFFFFFFFF, 0x1500000000000000⟩,
   ⟨0x16, 0xFFFFFFFE00000000, 0x1600000000000000⟩,
   ⟨0x20, 0xFFFFFFFFFFFFFFFF, 0x2000000000000000⟩,
   ⟨0x21, 0xFFFFFF0000000000, 0x2100000000000000⟩,
   ⟨0x22, 0xFFFFFFFEFFFFFFFF, 0x2200000000000000⟩,
   ⟨0x23, 0xFFFFFFFFFFFFFFFF, 0x2300000000000000⟩,
   ⟨0x24, 0xFFFFFFFFFFFFFFFF, 0x2400000000000000⟩,
   ⟨0x25, 0xFFFFFFFFFFFFFFFF, 0x2500000000000000⟩,
   ⟨0x30, 0xFFFFFFFFFFFFFFFF, 0x3000000000000000⟩,
   ⟨0x31, 0xFFFFFF00FFFFFFFF, 0x3100000000000000⟩,
   ⟨0x32, 0xFFFFFFFFFFFFFFFF, 0x3200000000000000⟩,
   ⟨0x33, 0xFFFFFFFFFFFFFFFF, 0x3300000000000000⟩,
   ⟨0x34, 0xFFFFFFFFFFFFFFFF, 0x3400000000000000⟩,
   ⟨0x35, 0xFFFF0000FFFFFFFF, 0x3500000000000000⟩,
   ⟨0x36, 0xFFFFFFFFFFFFFFFF, 0x3600000000000000⟩,
   ⟨0x40, 0xFFFFFFFFFFFFFFFF, 0x4000000000000000⟩,
   ⟨0x41, 0xFFFFFFFFFFFFFFFF, 0x4100000000000000⟩,
   ⟨0x42, 0xFFFFFFFFFFFFFFFF, 0x4200000000000000⟩]

/-- A word is a well-formed command of the row: `(word & mask) == match`, and for BSS.UNPACK the row's constraint
"B = 0 when A[0] = 1" (`30_encoding.md` R107). -/
abbrev OpcodeRow.Accepts (r : OpcodeRow) (w : Word64) : Prop :=
  w &&& r.mask = r.bits ∧ (r.op = 0x16 → w.getLsbD 32 = true → w.extractLsb' 0 32 = 0)

/-- The block has taken the host's next input and the earlier response, if any, has been transferred
(`70_reset_and_hazards.md` R311, log entry 4). -/
def State.accepted (s : State) (rest : List HostInput) : State :=
  { s with inputs := rest, rsp := none, responses := s.responses ++ s.rsp.toList }

/-- The next input of the host resets the block: the reset input, or a RESET word (`10_state.md` R60). -/
abbrev ResetNext (s : State) : Prop :=
  match s.inputs with
  | .assertReset :: _ => True
  | .command w :: _ => decode w = .ok .reset
  | _ => False

/-- Every element has the reset value of `10_state.md` R60; of the cells of IBUF and CBUF it says nothing (R62). -/
abbrev ResetValues (s : State) : Prop :=
  (s.faulted = false ∧ s.errcode = 0 ∧ s.errinfo = 0 ∧ s.cmdcnt = 0) ∧
  (s.ilen = 0 ∧ s.olen = 0 ∧ s.bitlen = 0 ∧ s.clen = 0 ∧ s.obuf = [] ∧ s.bits = []) ∧
  s.lzwCap.toNat = 65536 ∧
  (s.nleaf = 0 ∧ s.nodes.length = 0 ∧ s.heap.length = 0) ∧
  s.phase = .load ∧ s.root = 0xFFFF ∧
  (s.total = 0 ∧ s.totbits = 0 ∧ s.fwWidth = 0) ∧
  (∀ sym, cbEntry s.cb sym = { valid := false, len := 0, bits := 0 }) ∧ s.cbSrc = .none ∧
  (s.enext = 256 ∧ s.dnext = 256) ∧ (s.ew = none ∧ s.dprev = none) ∧ (s.eActive = false ∧ s.dActive = false) ∧
  statusWord s = 0

/-! ### Outcomes -/

/-- The state a refused command leaves (`60_exceptions.md` R273). -/
def State.refuse (s : State) (code : RejectCode) : State := (s.recordReject code).answer code.byte 0

/-- The state a command leaves that raised a FAULT after it had written `t` (`60_exceptions.md` R274). -/
def State.fail (t : State) (code : FaultCode) (info : Word32) : State := (t.takeFault code info).answer code.byte info

/-- The commands behind the fault gate: all but NOP, RESET and RD (`60_exceptions.md` R276). -/
def gated : Instr → Bool
  | .nop | .reset | .rd _ _ => false
  | .wr _ _ _ | .bssClr | .bssAppend _ _ | .bssAppsym _ | .bssEnc | .bssDec | .bssPack _ | .bssUnpack _ _ | .htbClr
  | .htbLoad _ _ | .htbCount _ | .htbStep | .htbAssign | .htbBuild | .lzwEinit | .lzwEbyte _ | .lzwEflush | .lzwEnc
  | .lzwDinit | .lzwDcode _ | .lzwDec | .fwAssign | .fwEnc | .fwDec => true

/-- The REJECT outcomes of each command's own rule (`60_exceptions.md` R272). -/
def ownRejects : Instr → List RejectCode
  | .nop | .reset | .bssClr | .htbClr | .htbCount _ | .lzwEinit | .lzwEnc | .lzwDinit => []
  | .rd _ _ => [.addr]
  | .wr _ _ _ => [.addr, .state, .badArg]
  | .bssAppend _ _ => [.badArg, .capacity]
  | .bssAppsym _ | .bssEnc | .bssPack _ | .bssDec | .lzwDec => [.capacity]
  | .bssUnpack _ _ => [.badLen, .capacity]
  | .htbLoad _ _ => [.state, .dupSym]
  | .htbStep => [.state]
  | .htbAssign | .htbBuild | .fwAssign => [.state, .empty]
  | .lzwEbyte _ | .lzwEflush | .lzwDcode _ | .fwEnc | .fwDec => [.state, .capacity]

/-- The FAULT outcomes of each command's own rule (`60_exceptions.md` R272). -/
def ownFaults : Instr → List FaultCode
  | .bssDec => [.noCode]
  | .lzwDcode _ | .lzwDec => [.lzwBadCode]
  | .fwDec => [.format, .noCode]
  | .nop | .reset | .rd _ _ | .wr _ _ _ | .bssClr | .bssAppend _ _ | .bssAppsym _ | .bssEnc | .bssPack _
  | .bssUnpack _ _ | .htbClr | .htbLoad _ _ | .htbCount _ | .htbStep | .htbAssign | .htbBuild | .lzwEinit
  | .lzwEbyte _ | .lzwEflush | .lzwEnc | .lzwDinit | .fwAssign | .fwEnc => []

/-! ### Frames -/

/-- The groups of storage, the control registers with the storage they belong to (`70_reset_and_hazards.md` R313;
the leaf table, arena and heap apart from PHASE, ROOT, TOTAL and TOTBITS). -/
inductive Storage where
  | ibuf
  | obuf
  | bits
  | cbuf
  | table
  | summary
  | cb
  | edict
  | ddict
  | lzwCap
  deriving DecidableEq, Repr

/-- A group holds the same in both states; the cells of IBUF and CBUF are compared read by read. -/
def Storage.Same (s t : State) : Storage → Prop
  | .ibuf => (∀ a, t.ibufRead a = s.ibufRead a) ∧ t.ilen = s.ilen
  | .obuf => t.obuf = s.obuf
  | .bits => t.bits = s.bits
  | .cbuf => (∀ a, t.cbufRead a = s.cbufRead a) ∧ t.clen = s.clen
  | .table => t.nleaf = s.nleaf ∧ t.nodes = s.nodes ∧ t.heap = s.heap
  | .summary => t.phase = s.phase ∧ t.root = s.root ∧ t.total = s.total ∧ t.totbits = s.totbits
  | .cb => t.cb = s.cb ∧ t.cbSrc = s.cbSrc ∧ t.fwWidth = s.fwWidth
  | .edict => t.edict = s.edict ∧ t.ew = s.ew ∧ t.eActive = s.eActive
  | .ddict => t.ddict = s.ddict ∧ t.dprev = s.dprev ∧ t.dActive = s.dActive
  | .lzwCap => t.lzwCap = s.lzwCap

/-- The groups WR may write, by its target (`20_memory.md` R74). -/
def wrWrites (space : BitVec 4) (addr : BitVec 20) : List Storage :=
  match space.toNat, addr.toNat with
  | 0, 5 => [.ibuf]
  | 0, 8 => [.cbuf]
  | 0, 9 => [.lzwCap]
  | 1, _ => [.ibuf]
  | 4, _ => [.cbuf]
  | 7, _ => [.cb]
  | _, _ => []

/-- The groups a command may write or append to (`70_reset_and_hazards.md` R313). -/
def writes : Instr → List Storage
  | .nop | .rd _ _ => []
  | .reset => [.ibuf, .obuf, .bits, .cbuf, .table, .summary, .cb, .edict, .ddict, .lzwCap]
  | .wr space addr _ => wrWrites space addr
  | .bssClr | .bssAppend _ _ | .bssAppsym _ | .bssEnc | .bssUnpack _ _ | .fwEnc => [.bits]
  | .bssDec | .bssPack _ | .fwDec => [.obuf]
  | .htbClr | .htbCount _ | .htbBuild => [.table, .summary, .cb]
  | .htbLoad _ _ => [.table]
  | .htbStep => [.table, .summary]
  | .htbAssign | .fwAssign => [.summary, .cb]
  | .lzwEinit | .lzwEbyte _ | .lzwEflush | .lzwEnc => [.cbuf, .edict]
  | .lzwDinit | .lzwDcode _ | .lzwDec => [.obuf, .ddict]

/-! ### Decoding a bit stream by its codes -/

/-- The bits `c` are the code of the symbol, of no smaller symbol, and no shorter beginning of them is a code
(`41_bitstream_serializer.md` R160, R162). -/
abbrev ShortestMatch (cb : Vector CbEntry 256) (c : List Bool) (sym : Byte) : Prop :=
  c ≠ [] ∧ codeOf cb sym = some c ∧ (∀ r, codeOf cb r = some c → sym.toNat ≤ r.toNat) ∧
  ∀ p, p <+: c → p ≠ [] → p ≠ c → ∀ r, codeOf cb r ≠ some p

/-- A stream cut at every shortest match, with the bits `rest` left over, no beginning of which is a code
(`41_bitstream_serializer.md` R160). -/
abbrev CutAtMatches (cb : Vector CbEntry 256) (stream : List Bool) (parts : List (List Bool × Byte))
    (rest : List Bool) : Prop :=
  stream = (parts.map Prod.fst).flatten ++ rest ∧ (∀ p ∈ parts, ShortestMatch cb p.1 p.2) ∧
  ∀ p, p <+: rest → p ≠ [] → ∀ r, codeOf cb r ≠ some p

/-! ### Trees -/

/-- The node reached from a node along a bit sequence, 0 into `left` and 1 into `right`
(`42_huffman_tree_builder.md` R202). -/
def walk (nodes : List Node) : NodeId → List Bool → Option NodeId
  | n, [] => some n
  | n, b :: p =>
    match nodes[n.toNat]? with
    | none => none
    | some nd => if nd.leaf then none else walk nodes (if b then nd.right else nd.left) p

/-! ### The LZW algorithm as the source words it, over byte sequences (`43_lzw_dict_accumulator.md` R220) -/

/-- The code of a byte sequence: its byte for one byte, else 256 and up in the order the sequences were added. -/
def textbookCode (dict : List (List Byte)) (w : List Byte) : Option Nat :=
  match w with
  | [c] => some c.toNat
  | _ => (dict.findIdx? fun x => x == w).map fun i => 256 + i

/-- Encode from match buffer `w` on, with at most `cap` dictionary entries. -/
def textbookEncode (cap : Nat) (dict : List (List Byte)) (w : List Byte) : List Byte → List Nat
  | [] => (textbookCode dict w).toList
  | c :: input =>
    match textbookCode dict (w ++ [c]) with
    | some _ => textbookEncode cap dict (w ++ [c]) input
    | none =>
      (textbookCode dict w).toList ++
        textbookEncode cap (if 256 + dict.length < cap then dict ++ [w ++ [c]] else dict) [c] input

/-! ### What a response says -/

/-- The ERR byte of the response the block presents (`30_encoding.md` R102). -/
def State.err (s : State) : Option (BitVec 8) := s.rsp.map fun w => w.extractLsb' 56 8

/-- The DATA word of the response the block presents (`30_encoding.md` R102). -/
def State.data (s : State) : Option Word32 := s.rsp.map fun w => w.extractLsb' 0 32

/-- The commands run one after another, and every one of them answers SUCCESS; none when one does not
(`60_exceptions.md` R270). -/
def succeedAll : List Instr → State → Option State
  | [], s => some s
  | i :: rest, s =>
    match exec i s with
    | .next t => if t.err = some 0 then succeedAll rest t else none
    | _ => none

end Sys2Proof.Machine
end

