-- ==== Sys2Proof/Certificates/Slice0/Obligations.lean ====
section
/-! DEFINITION. The statements about the model, for the provers. Each docstring names the rules of spec/ it
formalises. -/

open Sys2Proof Sys2Proof.Machine

/-! ### Encoding -/

/-- Decoding the word of a well-formed command gives the command back, at every operand value
(`30_encoding.md` R101 to R106). -/
def Obligations.EncodeThenDecode : Prop :=
  ∀ i : Instr, i.wellFormed = true → decode (encode i) = .ok i

/-- A word has one meaning and no bit of it is dropped: the word of the command a word decodes to is that word, and
the command is well-formed (`30_encoding.md` R104, R109). -/
def Obligations.DecodeThenEncode : Prop :=
  ∀ (w : Word64) (i : Instr), decode w = .ok i → i.wellFormed = true ∧ encode i = w

/-- A word with no row's OP is refused with E_ILLEGAL_OP, a word with a row's OP that the row does not accept with
E_BADFIELD, and a word a row accepts is a well-formed command and runs (`30_encoding.md` R107, R108, R109; that taking
the word transfers the earlier response, and that the host is a list of inputs, is the model's reading, log entry 4). -/
def Obligations.WordsRunOrAreRefused : Prop :=
  ∀ (s : State) (w : Word64) (rest : List HostInput), s.inputs = .command w :: rest →
    ((∀ r ∈ opcodeTable, w.extractLsb' 56 8 ≠ r.op) → step s = .next ((s.accepted rest).refuse .illegalOp)) ∧
    (∀ r ∈ opcodeTable, w.extractLsb' 56 8 = r.op → ¬ r.Accepts w →
      step s = .next ((s.accepted rest).refuse .badField)) ∧
    (∀ r ∈ opcodeTable, r.Accepts w →
      ∃ i, decode w = .ok i ∧ i.wellFormed = true ∧ step s = exec i (s.accepted rest))

/-- Words of the spec's own examples decode to the commands the spec says they are (`30_encoding.md` R101 to R109;
the words stand in the examples of `40_system_commands.md` R131, R134, `41_bitstream_serializer.md` R155, R156, R165,
`42_huffman_tree_builder.md` R192, R196, `43_lzw_dict_accumulator.md` section 4, `44_fixed_width.md` R258 and
`60_exceptions.md` section 4). -/
def Obligations.SpecWordsDecode : Prop :=
  decode 0x0000000000000000 = .ok .nop ∧
  decode 0x0300000900000064 = .ok (.wr 0 9 100) ∧
  decode 0x0280010000000000 = .ok (.rd 8 256) ∧
  decode 0x1100000300000005 = .ok (.bssAppend 3 5) ∧
  decode 0x1200006200000000 = .ok (.bssAppsym 0x62) ∧
  decode 0x1600000000000009 = .ok (.bssUnpack false 9) ∧
  decode 0x2100006100000003 = .ok (.htbLoad 0x61 3) ∧
  decode 0x2200000100000000 = .ok (.htbCount true) ∧
  decode 0x3500010200000000 = .ok (.lzwDcode 258) ∧
  decode 0x4200000000000000 = .ok .fwDec ∧
  decode 0x2300000000000001 = .error .badField ∧
  decode 0xFF00000000000000 = .error .illegalOp

/-! ### The step and the port -/

/-- A step with a command word next runs exactly the command the word decodes to, on the state in which the word is
consumed and the earlier response transferred (`40_system_commands.md` R130, `70_reset_and_hazards.md` R311; the
transfer of the earlier response is the model's reading, log entry 4). -/
def Obligations.StepRunsDecodedCommand : Prop :=
  ∀ (s : State) (w : Word64) (rest : List HostInput) (i : Instr),
    s.inputs = .command w :: rest → decode w = .ok i → step s = exec i (s.accepted rest)

/-- A block the host leaves alone holds its state, and the transfer of a response changes nothing but the port
(`30_encoding.md` R118, `70_reset_and_hazards.md` R311). -/
def Obligations.IdleHoldsStateAndResponsesTransfer : Prop :=
  (∀ s : State, s.inputs = [] → step s = .next s) ∧
  ∀ (s : State) (rest : List HostInput), s.inputs = .takeResponse :: rest → step s = .next (s.accepted rest)

/-- The state after reset, after the reset input and after a RESET command has every value of `10_state.md` R60;
the two resets differ only in the response word of the command (R61). The last clause compares whole states, so it
says more than the rules: that unwritten IBUF and CBUF cells read alike after either reset, which R62 leaves open, is
the model's choice (log entry 2: both resets count in `epoch`), and so is what is kept of the model's own fields, the
parameters (log entry 3) and the host's lists (log entry 4). -/
def Obligations.ResetsGiveTheResetValues : Prop :=
  ResetValues State.reset ∧
  ∀ s : State, ∃ t, exec .reset s = .next t ∧ ResetValues t ∧ t.rsp = some 0 ∧
    ∀ (u : State) (rest : List HostInput), u = { s with inputs := .assertReset :: rest } →
      ∃ v, step u = .next v ∧ ResetValues v ∧ v.rsp = none ∧ v = { t with rsp := none, inputs := rest }

/-- How the three outcomes are recorded and answered, field by field: the response layout (`30_encoding.md` R102),
a success, a refusal before and during a fault (`60_exceptions.md` R273), a fault (R274 (b) to (d)), and the values of
the codes (R271). -/
def Obligations.OutcomesAreRecordedAndAnswered : Prop :=
  (∀ (s : State) (err : BitVec 8) (data : Word32),
    ∃ w : Word64, s.answer err data = { s with cmdcnt := s.cmdcnt + 1, rsp := some w } ∧
      w.extractLsb' 56 8 = err ∧ w.extractLsb' 32 24 = 0 ∧ w.extractLsb' 0 32 = data) ∧
  (∀ (s : State) (code : RejectCode), s.faulted = false →
    s.refuse code = { s with errcode := code.byte, errinfo := 0 }.answer code.byte 0) ∧
  (∀ (s : State) (code : RejectCode), s.faulted = true → s.refuse code = s.answer code.byte 0) ∧
  (∀ (s : State) (code : FaultCode) (info : Word32),
    s.fail code info = { s with faulted := true, errcode := code.byte, errinfo := info }.answer code.byte info) ∧
  ([.illegalOp, .badField, .faulted, .state, .addr, .badArg, .dupSym, .empty, .badLen, .capacity].map
    RejectCode.byte = [0x01, 0x02, 0x03, 0x04, 0x05, 0x06, 0x07, 0x08, 0x09, 0x0A]) ∧
  ([.lzwBadCode, .noCode, .format].map FaultCode.byte = [0x80, 0x81, 0x82])

/-! ### Outcomes of every command -/

/-- Every command but RESET ends in exactly one of the three outcomes, with a code that its row of
`60_exceptions.md` R272 lists: SUCCESS with ERR = 0; REJECT with a code 0x01 to 0x0A and no effect but the recording
(R273); FAULT with a code 0x80 to 0x82 and the flag latched (R270). -/
def Obligations.EveryCommandSucceedsRefusesOrFaults : Prop :=
  ∀ (i : Instr) (s : State), i ≠ .reset →
    (∃ (t : State) (d : Word32), exec i s = .next (t.answer 0 d) ∧ t.cmdcnt = s.cmdcnt ∧ t.faulted = s.faulted ∧
      t.errcode = s.errcode ∧ t.errinfo = s.errinfo ∧ (gated i = true → s.faulted = false)) ∨
    (∃ code, exec i s = .next (s.refuse code) ∧ 0x01 ≤ code.byte.toNat ∧ code.byte.toNat ≤ 0x0A ∧
      (code ∈ ownRejects i ∧ (gated i = true → s.faulted = false) ∨
       code = .faulted ∧ gated i = true ∧ s.faulted = true)) ∨
    (∃ (t : State) (code : FaultCode) (info : Word32), exec i s = .next (t.fail code info) ∧ 0x80 ≤ code.byte.toNat ∧ code.byte.toNat ≤ 0x82 ∧
      code ∈ ownFaults i ∧ s.faulted = false ∧ t.cmdcnt = s.cmdcnt)

/-- While FAULT = 1 every well-formed command but NOP, RESET and RD is refused with E_FAULTED before its own rule is
looked at, a malformed word is reported as what it is, neither changes ERRCODE or ERRINFO, NOP and RD are not refused
by the gate, and only a reset clears FAULT (`60_exceptions.md` R276; that taking a malformed word transfers the earlier
response is the model's reading, log entry 4). -/
def Obligations.FaultGateRefusesCommands : Prop :=
  (∀ (i : Instr) (s : State), s.faulted = true → gated i = true →
    exec i s = .next (s.answer 0x03 0)) ∧
  (∀ (s : State) (w : Word64) (rest : List HostInput) (e : DecodeError), s.faulted = true →
    s.inputs = .command w :: rest → decode w = .error e →
    step s = .next ((s.accepted rest).answer (match e with | .illegalOp => 0x01 | .badField => 0x02) 0)) ∧
  (∀ (s : State), exec .nop s = .next (s.answer 0 0)) ∧
  (∀ (s t : State) (space : BitVec 4) (addr : BitVec 20), exec (.rd space addr) s = .next t →
    t.err = some 0 ∨ t.err = some 0x05) ∧
  (∀ s t : State, s.faulted = true → step s = .next t → (t.faulted = false ↔ ResetNext s))

/-- ERRCODE and ERRINFO hold the code and information word of the last REJECT or FAULT recorded: a success leaves
them, a refusal writes its code and 0, a fault its code and the DATA of its response, and while FAULT is 1 they are
frozen (`10_state.md` R24, R25). -/
def Obligations.ErrorRegistersFollowOutcomes : Prop :=
  ∀ s t : State, step s = .next t → ¬ ResetNext s →
    (s.faulted = true → t.errcode = s.errcode ∧ t.errinfo = s.errinfo) ∧
    ((∀ w rest, s.inputs ≠ .command w :: rest) →
      t.errcode = s.errcode ∧ t.errinfo = s.errinfo ∧ t.faulted = s.faulted) ∧
    (∀ w rest, s.inputs = .command w :: rest → s.faulted = false →
      (t.err = some 0 ∧ t.errcode = s.errcode ∧ t.errinfo = s.errinfo ∧ t.faulted = false) ∨
      (t.err = some t.errcode ∧ 0x01 ≤ t.errcode.toNat ∧ t.errcode.toNat ≤ 0x0A ∧ t.errinfo = 0 ∧
        t.data = some 0 ∧ t.faulted = false) ∨
      (t.err = some t.errcode ∧ 0x80 ≤ t.errcode.toNat ∧ t.errcode.toNat ≤ 0x82 ∧ t.data = some t.errinfo ∧
        t.faulted = true))

/-- CMDCNT counts every command word, malformed ones too, is 0 after RESET, is read before its own increment, is moved
by nothing else, and no command but the read of it behaves differently because of its value (`10_state.md` R27). -/
def Obligations.CommandCounterCountsAndNothingElse : Prop :=
  (∀ (s t : State) (w : Word64) (rest : List HostInput), s.inputs = .command w :: rest → step s = .next t →
    (decode w = .ok .reset → t.cmdcnt = 0) ∧ (decode w ≠ .ok .reset → t.cmdcnt = s.cmdcnt + 1)) ∧
  (∀ (s t : State), (∀ w rest, s.inputs ≠ .command w :: rest) → ¬ ResetNext s → step s = .next t →
    t.cmdcnt = s.cmdcnt) ∧
  (∀ s : State, exec (.rd 0 4) s = .next (s.answer 0 s.cmdcnt)) ∧
  (∀ (i : Instr) (s t : State) (n : Word32), i ≠ .rd 0 4 → exec i s = .next t →
    ∃ m, exec i { s with cmdcnt := n } = .next { t with cmdcnt := m })

/-- The frame of every command: a group of storage its row of `70_reset_and_hazards.md` R313 does not write is as
before, every cell of IBUF and CBUF reading as before, and the parameters, the host's inputs and the responses taken
are never touched. -/
def Obligations.FrameOfEveryCommand : Prop :=
  ∀ (i : Instr) (s t : State), exec i s = .next t →
    (∀ g, g ∉ writes i → Storage.Same s t g) ∧
    t.cfg = s.cfg ∧ t.inputs = s.inputs ∧ t.responses = s.responses ∧ (i ≠ .reset → t.epoch = s.epoch)

/-- The commands that store into a buffer cell change no other cell: WR only the addressed cell, LZW.EBYTE and
LZW.EFLUSH only the cell at CLEN, LZW.ENC only cells below the CLEN it leaves, LZW.EINIT none (`20_memory.md` R79,
`43_lzw_dict_accumulator.md` R225, R226, R229, R231). -/
def Obligations.StoresChangeOnlyTheirCells : Prop :=
  (∀ (s t : State) (addr : BitVec 20) (v : Word32) (a : Nat), exec (.wr 1 addr v) s = .next t →
    a ≠ addr.toNat → t.ibufRead a = s.ibufRead a) ∧
  (∀ (s t : State) (addr : BitVec 20) (v : Word32) (a : Nat), exec (.wr 4 addr v) s = .next t →
    a ≠ addr.toNat → t.cbufRead a = s.cbufRead a) ∧
  (∀ (s t : State) (space : BitVec 4) (addr : BitVec 20) (v : Word32) (a : Nat),
    exec (.wr space addr v) s = .next t →
    (space ≠ 1 → t.ibufRead a = s.ibufRead a) ∧ (space ≠ 4 → t.cbufRead a = s.cbufRead a)) ∧
  (∀ (s t : State) (c : Byte) (a : Nat), exec (.lzwEbyte c) s = .next t → a ≠ s.clen.toNat →
    t.cbufRead a = s.cbufRead a) ∧
  (∀ (s t : State) (a : Nat), exec .lzwEflush s = .next t → a ≠ s.clen.toNat → t.cbufRead a = s.cbufRead a) ∧
  (∀ (s t : State) (a : Nat), exec .lzwEinit s = .next t → t.cbufRead a = s.cbufRead a) ∧
  (∀ (s t : State) (a : Nat), exec .lzwEnc s = .next t → t.clen.toNat ≤ a → t.cbufRead a = s.cbufRead a)

/-! ### System commands -/

/-- NOP returns 0, whatever FAULT is, and does nothing but count; BSS.CLR, HTB.CLR, LZW.EINIT and LZW.DINIT
return 0 and make exactly the state changes of their rules (`40_system_commands.md` R131, `41_bitstream_serializer.md` R154,
`42_huffman_tree_builder.md` R190, `43_lzw_dict_accumulator.md` R225, R235). -/
def Obligations.ClearingCommandsComplete : Prop :=
  (∀ s : State, exec .nop s = .next (s.answer 0 0)) ∧
  ∀ s : State, s.faulted = false →
    exec .bssClr s = .next ({ s with bits := [] }.answer 0 0) ∧
    exec .htbClr s = .next ({ s with nleaf := 0, nodes := [], heap := [], phase := .load, root := nilId,
                                     cb := Vector.replicate 256 ⟨false, 0, 0⟩, cbSrc := .none, total := 0,
                                     totbits := 0, fwWidth := 0 }.answer 0 0) ∧
    exec .lzwEinit s = .next ({ s with edict := [], ew := none, clen := 0, eActive := true }.answer 0 0) ∧
    exec .lzwDinit s = .next ({ s with ddict := [], dprev := none, obuf := [], dActive := true }.answer 0 0)

/-- RD of every control and status register returns its content, zero-extended, and a register that does not exist is
refused with E_ADDR (`10_state.md` R26, R54). -/
def Obligations.RdReturnsRegisters : Prop :=
  ∀ s : State,
    (∀ p ∈ ([(0x00, 0x48544231),
        (0x01, s.faulted.toNat + 2 * (match s.phase with | .load => 0 | .merge => 1 | .built => 2)
          + 8 * (match s.cbSrc with | .none => 0 | .huffman => 1 | .host => 2 | .fixed => 3)
          + 32 * s.eActive.toNat + 64 * s.dActive.toNat),
        (0x02, s.errcode.toNat), (0x03, s.errinfo.toNat), (0x04, s.cmdcnt.toNat), (0x05, s.ilen.toNat),
        (0x06, s.obuf.length), (0x07, s.bits.length), (0x08, s.clen.toNat), (0x09, s.lzwCap.toNat),
        (0x0A, s.nleaf), (0x0B, s.nodes.length), (0x0C, s.heap.length), (0x0D, s.root.toNat)] :
        List (BitVec 20 × Nat)),
      exec (.rd 0 p.1) s = .next (s.answer 0 (BitVec.ofNat 32 p.2))) ∧
    (∀ p ∈ ([(0x0E, s.total.toNat % 2 ^ 32), (0x0F, s.total.toNat / 2 ^ 32), (0x10, s.totbits.toNat % 2 ^ 32),
        (0x11, s.totbits.toNat / 2 ^ 32), (0x12, s.fwWidth.toNat), (0x13, 256 + s.edict.length),
        (0x14, match s.ew with | none => 0 | some k => 2 ^ 16 + k.toNat), (0x15, 256 + s.ddict.length),
        (0x16, match s.dprev with | none => 0 | some k => 2 ^ 16 + k.toNat), (0x17, s.cfg.ibufBytes),
        (0x18, s.cfg.obufBytes), (0x19, s.cfg.bitcap), (0x1A, s.cfg.cbufWords)] : List (BitVec 20 × Nat)),
      exec (.rd 0 p.1) s = .next (s.answer 0 (BitVec.ofNat 32 p.2))) ∧
    (∀ n : BitVec 20, 0x1B ≤ n.toNat → exec (.rd 0 n) s = .next (s.refuse .addr))

/-- RD of the other nine windows: the element at the address as the window lays it out, E_ADDR past the end, in the
holes of the codebook window and in the spaces that do not exist (`20_memory.md` R78, R80, R81, R83 whole; R77, R79
and R82 for reads). -/
def Obligations.RdReturnsWindowElements : Prop :=
  ∀ (s : State) (a : BitVec 20),
    (∀ v, s.obuf[a.toNat]? = some v → exec (.rd 2 a) s = .next (s.answer 0 (BitVec.ofNat 32 v.toNat))) ∧
    (s.obuf.length ≤ a.toNat → exec (.rd 2 a) s = .next (s.refuse .addr)) ∧
    (a.toNat < s.cfg.ibufBytes → exec (.rd 1 a) s = .next (s.answer 0 (BitVec.ofNat 32 (s.ibufRead a.toNat).toNat))) ∧
    (s.cfg.ibufBytes ≤ a.toNat → exec (.rd 1 a) s = .next (s.refuse .addr)) ∧
    (a.toNat < s.cfg.cbufWords → exec (.rd 4 a) s = .next (s.answer 0 (BitVec.ofNat 32 (s.cbufRead a.toNat).toNat))) ∧
    (s.cfg.cbufWords ≤ a.toNat → exec (.rd 4 a) s = .next (s.refuse .addr)) ∧
    (∀ v, (toBytes s.bits)[a.toNat]? = some v → exec (.rd 3 a) s = .next (s.answer 0 (BitVec.ofNat 32 v.toNat))) ∧
    ((s.bits.length + 7) / 8 ≤ a.toNat → exec (.rd 3 a) s = .next (s.refuse .addr)) ∧
    (∀ n, s.nodes[a.toNat / 4]? = some n → exec (.rd 5 a) s = .next (s.answer 0 (BitVec.ofNat 32
      (match a.toNat % 4 with
        | 0 => n.weight.toNat % 2 ^ 32
        | 1 => n.weight.toNat / 2 ^ 32
        | 2 => n.right.toNat * 2 ^ 16 + n.left.toNat
        | _ => n.leaf.toNat * 2 ^ 8 + n.sym.toNat)))) ∧
    (4 * s.nodes.length ≤ a.toNat → exec (.rd 5 a) s = .next (s.refuse .addr)) ∧
    (∀ k, s.heap[a.toNat / 2]? = some k → exec (.rd 6 a) s = .next (s.answer 0 (BitVec.ofNat 32
      (if a.toNat % 2 = 0 then k.weight.toNat % 2 ^ 32 else k.id.toNat * 2 ^ 16 + k.weight.toNat / 2 ^ 32)))) ∧
    (2 * s.heap.length ≤ a.toNat → exec (.rd 6 a) s = .next (s.refuse .addr)) ∧
    (∀ (sym : Byte) (f : Nat), a.toNat = 16 * sym.toNat + f → f ≤ 8 →
      exec (.rd 7 a) s = .next (s.answer 0 (BitVec.ofNat 32
        (if f = 0 then (cbEntry s.cb sym).valid.toNat * 2 ^ 31 + (cbEntry s.cb sym).len.toNat
         else (cbEntry s.cb sym).bits.toNat / 2 ^ (32 * (f - 1)) % 2 ^ 32)))) ∧
    (4096 ≤ a.toNat ∨ 9 ≤ a.toNat % 16 → exec (.rd 7 a) s = .next (s.refuse .addr)) ∧
    (∀ p ∈ ([(8, s.edict), (9, s.ddict)] : List (BitVec 4 × List DictEntry)),
      (a.toNat < 256 → exec (.rd p.1 a) s = .next (s.answer 0 (BitVec.ofNat 32 (a.toNat * 2 ^ 16 + 0xFFFF)))) ∧
      (∀ e, 256 ≤ a.toNat → p.2[a.toNat - 256]? = some e →
        exec (.rd p.1 a) s =
          .next (s.answer 0 (BitVec.ofNat 32 (e.byte.toNat * 2 ^ 16 + e.prefixCode.toNat)))) ∧
      (256 + p.2.length ≤ a.toNat → exec (.rd p.1 a) s = .next (s.refuse .addr))) ∧
    (∀ space : BitVec 4, 10 ≤ space.toNat → exec (.rd space a) s = .next (s.refuse .addr))

/-- WR of ILEN, CLEN and LZW_CAP (`20_memory.md` R76). -/
def Obligations.WrSetsRegisters : Prop :=
  ∀ (s : State) (v : Word32), s.faulted = false →
    (v.toNat ≤ s.cfg.ibufBytes → exec (.wr 0 0x05 v) s = .next ({ s with ilen := v }.answer 0 0)) ∧
    (s.cfg.ibufBytes < v.toNat → exec (.wr 0 0x05 v) s = .next (s.refuse .badArg)) ∧
    (v.toNat ≤ s.cfg.cbufWords → exec (.wr 0 0x08 v) s = .next ({ s with clen := v }.answer 0 0)) ∧
    (s.cfg.cbufWords < v.toNat → exec (.wr 0 0x08 v) s = .next (s.refuse .badArg)) ∧
    (s.eActive = true ∨ s.dActive = true → exec (.wr 0 0x09 v) s = .next (s.refuse .state)) ∧
    (s.eActive = false → s.dActive = false → v.toNat < 256 ∨ 65536 < v.toNat →
      exec (.wr 0 0x09 v) s = .next (s.refuse .badArg)) ∧
    (s.eActive = false → s.dActive = false → 256 ≤ v.toNat → v.toNat ≤ 65536 →
      exec (.wr 0 0x09 v) s = .next ({ s with lzwCap := v }.answer 0 0))

/-- WR of an IBUF or CBUF cell: the cell reads as the value written, every other field is as before (but for the count
and the response), and a value too wide is refused (`20_memory.md` R79). -/
def Obligations.WrSetsBufferCells : Prop :=
  ∀ (s : State) (addr : BitVec 20) (v : Word32), s.faulted = false →
    (addr.toNat < s.cfg.ibufBytes → v.toNat ≤ 0xFF →
      ∃ t : State, exec (.wr 1 addr v) s = .next (t.answer 0 0) ∧ t = { s with ibuf := t.ibuf } ∧
        ∀ a, t.ibufRead a = if a = addr.toNat then v.extractLsb' 0 8 else s.ibufRead a) ∧
    (addr.toNat < s.cfg.ibufBytes → 0xFF < v.toNat → exec (.wr 1 addr v) s = .next (s.refuse .badArg)) ∧
    (addr.toNat < s.cfg.cbufWords → v.toNat ≤ 0xFFFF →
      ∃ t : State, exec (.wr 4 addr v) s = .next (t.answer 0 0) ∧ t = { s with cbuf := t.cbuf } ∧
        ∀ a, t.cbufRead a = if a = addr.toNat then v.extractLsb' 0 16 else s.cbufRead a) ∧
    (addr.toNat < s.cfg.cbufWords → 0xFFFF < v.toNat → exec (.wr 4 addr v) s = .next (s.refuse .badArg))

/-- WR into the codebook window: word 0 sets valid and len or is refused, word f replaces 32 container bits, no other
entry changes, and the host becomes the codebook's writer (`20_memory.md` R82). -/
def Obligations.WrSetsCodebookWords : Prop :=
  ∀ (s : State) (addr : BitVec 20) (v : Word32) (sym : Byte), s.faulted = false →
    (addr.toNat = 16 * sym.toNat →
      (v.toNat / 2 ^ 9 % 2 ^ 22 ≠ 0 ∨ 255 < v.toNat % 2 ^ 9 ∨ (2 ^ 31 ≤ v.toNat ∧ v.toNat % 2 ^ 9 = 0) →
        exec (.wr 7 addr v) s = .next (s.refuse .badArg)) ∧
      (v.toNat / 2 ^ 9 % 2 ^ 22 = 0 → v.toNat % 2 ^ 9 ≤ 255 → (2 ^ 31 ≤ v.toNat → v.toNat % 2 ^ 9 ≠ 0) →
        ∃ cb, exec (.wr 7 addr v) s = .next ({ s with cb := cb, cbSrc := .host, fwWidth := 0 }.answer 0 0) ∧
          ((cbEntry cb sym).valid = true ↔ 2 ^ 31 ≤ v.toNat) ∧ (cbEntry cb sym).len.toNat = v.toNat % 2 ^ 9 ∧
          (cbEntry cb sym).bits = (cbEntry s.cb sym).bits ∧ ∀ r, r ≠ sym → cbEntry cb r = cbEntry s.cb r)) ∧
    (∀ f : Nat, 1 ≤ f → f ≤ 8 → addr.toNat = 16 * sym.toNat + f →
      ∃ cb, exec (.wr 7 addr v) s = .next ({ s with cb := cb, cbSrc := .host, fwWidth := 0 }.answer 0 0) ∧
        (cbEntry cb sym).valid = (cbEntry s.cb sym).valid ∧ (cbEntry cb sym).len = (cbEntry s.cb sym).len ∧
        (∀ j : Nat, j < 256 → (cbEntry cb sym).bits.getLsbD j =
          if 32 * (f - 1) ≤ j ∧ j < 32 * f then v.getLsbD (j - 32 * (f - 1))
          else (cbEntry s.cb sym).bits.getLsbD j) ∧
        ∀ r, r ≠ sym → cbEntry cb r = cbEntry s.cb r)

/-- WR anywhere else is refused with E_ADDR and changes nothing: read-only registers, registers and spaces that do not
exist, windows the host cannot write, addresses past the end, holes of the codebook window (`20_memory.md` R74, R75);
no other command writes IBUF (R74), RESET apart, which leaves its cells unspecified. -/
def Obligations.WrElsewhereIsRefused : Prop :=
  (∀ (s : State) (addr : BitVec 20) (v : Word32), s.faulted = false →
    (addr ≠ 0x05 → addr ≠ 0x08 → addr ≠ 0x09 → exec (.wr 0 addr v) s = .next (s.refuse .addr)) ∧
    (s.cfg.ibufBytes ≤ addr.toNat → exec (.wr 1 addr v) s = .next (s.refuse .addr)) ∧
    (s.cfg.cbufWords ≤ addr.toNat → exec (.wr 4 addr v) s = .next (s.refuse .addr)) ∧
    (4096 ≤ addr.toNat ∨ 9 ≤ addr.toNat % 16 → exec (.wr 7 addr v) s = .next (s.refuse .addr)) ∧
    (∀ space : BitVec 4, space ∉ ([0, 1, 4, 7] : List (BitVec 4)) →
      exec (.wr space addr v) s = .next (s.refuse .addr))) ∧
  (∀ (i : Instr) (s t : State), (∀ space addr v, i ≠ .wr space addr v) → i ≠ .reset → exec i s = .next t →
    t.ibuf = s.ibuf)

/-! ### Bitstream serializer -/

/-- BSS.APPEND: a bad count is refused, bits that do not fit are refused, else the n low bits of B are appended, most
significant first (`41_bitstream_serializer.md` R155). -/
def Obligations.AppendAddsBits : Prop :=
  ∀ (s : State) (n : BitVec 6) (b : Word32), s.faulted = false →
    (n.toNat = 0 ∨ 32 < n.toNat → exec (.bssAppend n b) s = .next (s.refuse .badArg)) ∧
    (1 ≤ n.toNat → n.toNat ≤ 32 → s.cfg.bitcap < s.bits.length + n.toNat →
      exec (.bssAppend n b) s = .next (s.refuse .capacity)) ∧
    (1 ≤ n.toNat → n.toNat ≤ 32 → s.bits.length + n.toNat ≤ s.cfg.bitcap →
      ∃ add : List Bool, add.length = n.toNat ∧
        (∀ i, i < n.toNat → add[i]? = some (b.getLsbD (n.toNat - 1 - i))) ∧
        exec (.bssAppend n b) s =
          .next ({ s with bits := s.bits ++ add }.answer 0 (word32 (s.bits.length + n.toNat))))

/-- `code(s)`: none for an invalid entry, else bit i of the sequence is container bit len - 1 - i
(`10_state.md` R45). -/
def Obligations.CodeReadsContainerBits : Prop :=
  ∀ (cb : Vector CbEntry 256) (sym : Byte),
    ((cbEntry cb sym).valid = false → codeOf cb sym = none) ∧
    ((cbEntry cb sym).valid = true → ∃ code : List Bool, codeOf cb sym = some code ∧
      code.length = (cbEntry cb sym).len.toNat ∧
      ∀ i, i < code.length → code[i]? = some ((cbEntry cb sym).bits.getLsbD (code.length - 1 - i)))

/-- BSS.APPSYM and BSS.ENC append the codes of a symbol or of the whole input, skip symbols with no code, and are
refused when the codes do not fit (`41_bitstream_serializer.md` R156, R158). -/
def Obligations.SymbolsAppendTheirCodes : Prop :=
  ∀ s : State, s.faulted = false →
    (∀ sym, codeOf s.cb sym = none → exec (.bssAppsym sym) s = .next (s.answer 0 (word32 s.bits.length))) ∧
    (∀ sym c, codeOf s.cb sym = some c →
      (s.cfg.bitcap < s.bits.length + c.length → exec (.bssAppsym sym) s = .next (s.refuse .capacity)) ∧
      (s.bits.length + c.length ≤ s.cfg.bitcap →
        exec (.bssAppsym sym) s =
          .next ({ s with bits := s.bits ++ c }.answer 0 (word32 (s.bits.length + c.length))))) ∧
    (∀ add, add = (((List.range s.ilen.toNat).map s.ibufRead).filterMap (codeOf s.cb)).flatten →
      (s.cfg.bitcap < s.bits.length + add.length → exec .bssEnc s = .next (s.refuse .capacity)) ∧
      (s.bits.length + add.length ≤ s.cfg.bitcap →
        exec .bssEnc s =
          .next ({ s with bits := s.bits ++ add }.answer 0 (word32 (s.bits.length + add.length)))))

/-- Appending never disturbs what is in the stream, and a refusal leaves it exactly as it was
(`41_bitstream_serializer.md` R157). -/
def Obligations.AppendKeepsEarlierBits : Prop :=
  ∀ (s t : State) (i : Instr), (i = .bssEnc ∨ (∃ n b, i = .bssAppend n b) ∨ ∃ sym, i = .bssAppsym sym) →
    exec i s = .next t →
    t.bits.take s.bits.length = s.bits ∧ (t.err ≠ some 0 → t.bits = s.bits) ∧
    t.obuf = s.obuf ∧ t.cb = s.cb ∧ ∀ a, t.ibufRead a = s.ibufRead a

/-- `toBytes` and `fromBytes`: the lengths, every byte as the sum the rule writes, every bit read back, and
`fromBytes(toBytes(s), len(s)) = s` (`41_bitstream_serializer.md` R151, R152). -/
def Obligations.BytesAndBitsConvert : Prop :=
  (∀ stream : List Bool,
    (toBytes stream).length = (stream.length + 7) / 8 ∧
    (∀ j v, (toBytes stream)[j]? = some v →
      v.toNat = ((List.range 8).map fun t => (stream.getD (8 * j + t) false).toNat * 2 ^ (7 - t)).sum) ∧
    fromBytes (toBytes stream) stream.length = stream) ∧
  (∀ (buf : List Byte) (n : Nat), buf.length = (n + 7) / 8 →
    (fromBytes buf n).length = n ∧
    ∀ i v, i < n → buf[i / 8]? = some v → (fromBytes buf n)[i]? = some (v.getLsbD (7 - i % 8)))

/-- BSS.DEC on every stream with every codebook: the stream has a cut at its shortest matches; with that cut the
command is refused when the symbols do not fit, succeeds when no bits are left over, and else faults with the symbols
before the unmatched bits in OBUF and the index of the first of these bits (`41_bitstream_serializer.md` R160, R162). -/
def Obligations.DecodeFollowsShortestMatches : Prop :=
  ∀ s : State, s.faulted = false →
    (∃ parts rest, CutAtMatches s.cb s.bits parts rest) ∧
    ∀ parts rest, CutAtMatches s.cb s.bits parts rest →
      (s.cfg.obufBytes < parts.length → exec .bssDec s = .next (s.refuse .capacity)) ∧
      (parts.length ≤ s.cfg.obufBytes → rest = [] →
        exec .bssDec s = .next ({ s with obuf := parts.map Prod.snd }.answer 0 (word32 parts.length))) ∧
      (parts.length ≤ s.cfg.obufBytes → rest ≠ [] →
        exec .bssDec s = .next ({ s with obuf := parts.map Prod.snd }.fail .noCode
          (word32 (s.bits.length - rest.length))))

/-- Round trip of the variable-length coder: with a prefix-free codebook that has a code for every input symbol,
BSS.CLR, BSS.ENC, BSS.DEC all succeed and leave the input in OBUF (`41_bitstream_serializer.md` R161; code lengths of at
least 1 are `10_state.md` R45). -/
def Obligations.VariableLengthRoundTrip : Prop :=
  ∀ s : State, s.faulted = false → CodeLengthsOk s.cb → PrefixFree s.cb →
    (∀ c ∈ s.inputBytes, (cbEntry s.cb c).valid = true) →
    (encodeBytes s.cb s.inputBytes).length ≤ s.cfg.bitcap → s.ilen.toNat ≤ s.cfg.obufBytes →
    ∃ t, succeedAll [.bssClr, .bssEnc, .bssDec] s = some t ∧
      t = { s with bits := t.bits, obuf := s.inputBytes, cmdcnt := s.cmdcnt + 3, rsp := t.rsp } ∧
      t.olen = s.ilen.toNat ∧ t.data = some s.ilen

/-- BSS.PACK: the packed bytes, after the four bytes of BITLEN when hdr = 1, or a refusal when they do not fit
(`41_bitstream_serializer.md` R163, R164). -/
def Obligations.PackWritesTheArtifact : Prop :=
  ∀ s : State, s.faulted = false → ∀ n, n = s.bits.length →
    (4 + (n + 7) / 8 ≤ s.cfg.obufBytes → exec (.bssPack true) s =
      .next ({ s with obuf := [BitVec.ofNat 8 (n / 2 ^ 24), BitVec.ofNat 8 (n / 2 ^ 16), BitVec.ofNat 8 (n / 2 ^ 8),
                               BitVec.ofNat 8 n] ++ toBytes s.bits }.answer 0 (word32 (4 + (n + 7) / 8)))) ∧
    (s.cfg.obufBytes < 4 + (n + 7) / 8 → exec (.bssPack true) s = .next (s.refuse .capacity)) ∧
    ((n + 7) / 8 ≤ s.cfg.obufBytes → exec (.bssPack false) s =
      .next ({ s with obuf := toBytes s.bits }.answer 0 (word32 ((n + 7) / 8)))) ∧
    (s.cfg.obufBytes < (n + 7) / 8 → exec (.bssPack false) s = .next (s.refuse .capacity))

/-- BSS.UNPACK: the bit length from the B field or from the big-endian header, the checks in order, and the bits of the
bytes that follow (`41_bitstream_serializer.md` R165). -/
def Obligations.UnpackReadsTheArtifact : Prop :=
  ∀ s : State, s.faulted = false →
    (s.ilen.toNat < 4 → exec (.bssUnpack true 0) s = .next (s.refuse .badLen)) ∧
    (∀ n, n = (s.ibufRead 0).toNat * 2 ^ 24 + (s.ibufRead 1).toNat * 2 ^ 16 + (s.ibufRead 2).toNat * 2 ^ 8
        + (s.ibufRead 3).toNat → 4 ≤ s.ilen.toNat →
      (s.cfg.bitcap < n → exec (.bssUnpack true 0) s = .next (s.refuse .capacity)) ∧
      (n ≤ s.cfg.bitcap → s.ilen.toNat ≠ 4 + (n + 7) / 8 → exec (.bssUnpack true 0) s = .next (s.refuse .badLen)) ∧
      (n ≤ s.cfg.bitcap → s.ilen.toNat = 4 + (n + 7) / 8 → exec (.bssUnpack true 0) s =
        .next ({ s with bits := fromBytes (s.inputBytes.drop 4) n }.answer 0 (word32 n)))) ∧
    (∀ nbits : Word32,
      (s.cfg.bitcap < nbits.toNat → exec (.bssUnpack false nbits) s = .next (s.refuse .capacity)) ∧
      (nbits.toNat ≤ s.cfg.bitcap → s.ilen.toNat ≠ (nbits.toNat + 7) / 8 →
        exec (.bssUnpack false nbits) s = .next (s.refuse .badLen)) ∧
      (nbits.toNat ≤ s.cfg.bitcap → s.ilen.toNat = (nbits.toNat + 7) / 8 → exec (.bssUnpack false nbits) s =
        .next ({ s with bits := fromBytes s.inputBytes nbits.toNat }.answer 0 nbits)))

/-- The payload artifact gives the stream back: any state whose input is what BSS.PACK 1 put into OBUF has, after
BSS.UNPACK 1, the bits that were packed (`41_bitstream_serializer.md` R166). -/
def Obligations.ArtifactGivesTheStreamBack : Prop :=
  ∀ s t u : State, s.faulted = false → s.bits.length < 2 ^ 32 → exec (.bssPack true) s = .next t → t.err = some 0 →
    u.faulted = false → u.inputBytes = t.obuf → s.bits.length ≤ u.cfg.bitcap →
    exec (.bssUnpack true 0) u = .next ({ u with bits := s.bits }.answer 0 (word32 s.bits.length))

/-! ### Huffman tree builder -/

/-- HTB.LOAD: the two refusals, else the next leaf with its key pushed into the heap (`42_huffman_tree_builder.md`
R192). -/
def Obligations.LoadAddsALeaf : Prop :=
  ∀ (s : State) (sym : Byte) (weight : Word32), s.faulted = false →
    (s.phase ≠ .load → exec (.htbLoad sym weight) s = .next (s.refuse .state)) ∧
    (s.phase = .load → (∃ n ∈ s.leaves, n.sym = sym) → exec (.htbLoad sym weight) s = .next (s.refuse .dupSym)) ∧
    (s.phase = .load → (∀ n ∈ s.leaves, n.sym ≠ sym) → exec (.htbLoad sym weight) s =
      .next ({ s with nodes := s.nodes ++ [(⟨BitVec.ofNat 40 weight.toNat, true, sym, 0xFFFF, 0xFFFF⟩ : Node)],
                      nleaf := s.nleaf + 1,
                      heap := heapPush s.heap ⟨BitVec.ofNat 40 weight.toNat, BitVec.ofNat 16 s.nleaf⟩ }.answer 0
        (word32 s.nleaf)))

/-- HTB.COUNT: the table becomes the symbols that occur with their counts, in ascending order, or by descending count
with equal counts ascending, the keys pushed in that order (`42_huffman_tree_builder.md` R196). -/
def Obligations.CountLoadsTheTable : Prop :=
  ∀ (s : State) (order : Bool), s.faulted = false →
    ∃ syms : List Byte,
      (∀ c, c ∈ syms ↔ 0 < s.inputBytes.count c) ∧
      (order = false → syms.Pairwise fun a b => a.toNat < b.toNat) ∧
      (order = true → syms.Pairwise fun a b =>
        s.inputBytes.count b < s.inputBytes.count a ∨
        (s.inputBytes.count b = s.inputBytes.count a ∧ a.toNat < b.toNat)) ∧
      exec (.htbCount order) s = .next (
        { s with
          nodes := syms.map fun c => (⟨BitVec.ofNat 40 (s.inputBytes.count c), true, c, nilId, nilId⟩ : Node),
          nleaf := syms.length,
          heap := (syms.zipIdx.map fun (p : Byte × Nat) =>
            (⟨BitVec.ofNat 40 (s.inputBytes.count p.1), BitVec.ofNat 16 p.2⟩ : HeapKey)).foldl heapPush [],
          phase := .load, root := nilId, cb := cbCleared, cbSrc := .none, total := 0, totbits := 0,
          fwWidth := 0 }.answer 0 (word32 syms.length))

/-- `heap_push` adds exactly its key; `heap_pop` answers on every heap that is not empty, takes one of the heap's keys
out and keeps exactly the others; both keep the heap property, and the key popped from an ordered heap is the least, so
the keys come out in key order whatever the layout (`42_huffman_tree_builder.md` R181 to R184). -/
def Obligations.HeapPopsTheLeastKey : Prop :=
  (∀ a b : HeapKey, a.lt b = true ↔
    (a.weight.toNat < b.weight.toNat ∨ (a.weight.toNat = b.weight.toNat ∧ a.id.toNat < b.id.toNat))) ∧
  (∀ (h : List HeapKey) (k : HeapKey), (heapPush h k).Perm (k :: h) ∧
    (HeapOrdered h → HeapOrdered (heapPush h k))) ∧
  (∀ h : List HeapKey, h ≠ [] → ∃ k h', heapPop h = some (k, h') ∧ h.Perm (k :: h') ∧
    (HeapOrdered h → HeapOrdered h' ∧ ∀ x ∈ h, x.lt k = false))

/-- HTB.STEP: the two refusals; else the two least keys are taken out, x before y, joined under a new node with x at
the left, and the new key pushed (`42_huffman_tree_builder.md` R198). -/
def Obligations.StepMergesTheTwoLeast : Prop :=
  ∀ s : State, s.faulted = false →
    (s.phase = .built ∨ s.heap.length < 2 → exec .htbStep s = .next (s.refuse .state)) ∧
    (s.phase ≠ .built → 2 ≤ s.heap.length → HeapOrdered s.heap →
      ∃ x y h1 h2, heapPop s.heap = some (x, h1) ∧ heapPop h1 = some (y, h2) ∧
        s.heap.Perm (x :: y :: h2) ∧ y.lt x = false ∧ (∀ k ∈ h2, k.lt x = false ∧ k.lt y = false) ∧
        exec .htbStep s = .next (
          { s with
            nodes := s.nodes ++ [(⟨x.weight + y.weight, false, 0, x.id, y.id⟩ : Node)],
            heap := heapPush h2 ⟨x.weight + y.weight, BitVec.ofNat 16 s.nodes.length⟩,
            phase := .merge }.answer 0 (word32 s.nodes.length)) ∧
        HeapOrdered (heapPush h2 ⟨x.weight + y.weight, BitVec.ofNat 16 s.nodes.length⟩))

/-- HTB.ASSIGN: the refusals in order; else every leaf's symbol gets the path from the root to the leaf as its code, or
the code 0 when it is the only leaf, every other symbol gets none, and the registers are set
(`42_huffman_tree_builder.md` R202, R203). -/
def Obligations.AssignReadsLeafPaths : Prop :=
  ∀ s : State, s.faulted = false →
    (s.phase = .built → exec .htbAssign s = .next (s.refuse .state)) ∧
    (s.phase ≠ .built → s.nleaf = 0 → exec .htbAssign s = .next (s.refuse .empty)) ∧
    (s.phase ≠ .built → s.nleaf ≠ 0 → s.heap.length ≠ 1 → exec .htbAssign s = .next (s.refuse .state)) ∧
    (∀ k, BuilderOk s → s.phase ≠ .built → s.nleaf ≠ 0 → s.heap = [k] →
      ∃ cb total totbits, exec .htbAssign s = .next (
          { s with root := k.id, cb := cb, total := total, totbits := totbits, cbSrc := .huffman, fwWidth := 0,
                   phase := .built }.answer 0 (BitVec.ofNat 32 k.id.toNat)) ∧
        (∀ (i : Nat) (n : Node), s.leaves[i]? = some n →
          ∃ p, walk s.nodes k.id p = some (BitVec.ofNat 16 i) ∧ p.length ≤ 255 ∧
            codeOf cb n.sym = some (if s.nleaf = 1 then [false] else p) ∧
            (cbEntry cb n.sym).bits.toNat < 2 ^ (cbEntry cb n.sym).len.toNat) ∧
        (∀ sym, (∀ n ∈ s.leaves, n.sym ≠ sym) → cbEntry cb sym = CbEntry.cleared) ∧
        total.toNat = (s.leaves.map fun n => n.weight.toNat).sum ∧
        totbits.toNat = (s.leaves.map fun n => n.weight.toNat * (cbEntry cb n.sym).len.toNat).sum)

/-- HTB.BUILD: the refusals in order; else it leaves exactly the state of HS - 1 HTB.STEP commands and
HTB.ASSIGN, except that CMDCNT advances by 1 instead of by HS; and what it builds is a function of the leaf table alone,
whatever the layout of the heap and however many HTB.STEP commands came before (`42_huffman_tree_builder.md` R206,
R207). -/
def Obligations.BuildIsStepsThenAssign : Prop :=
  ∀ s : State, s.faulted = false →
    (s.phase = .built → exec .htbBuild s = .next (s.refuse .state)) ∧
    (s.phase ≠ .built → s.nleaf = 0 → exec .htbBuild s = .next (s.refuse .empty)) ∧
    (s.phase ≠ .built → s.nleaf ≠ 0 → 1 ≤ s.heap.length →
      ∃ t, succeedAll (List.replicate (s.heap.length - 1) .htbStep ++ [.htbAssign]) s = some t ∧
        t.cmdcnt = s.cmdcnt + BitVec.ofNat 32 s.heap.length ∧
        exec .htbBuild s = .next { t with cmdcnt := s.cmdcnt + 1 }) ∧
    (∀ (u v w : State) (m n : Nat), BuilderOk s → HeapOrdered s.heap → s.phase = .load →
      u.faulted = false → BuilderOk u → HeapOrdered u.heap → u.phase = .load → s.leaves = u.leaves → s.nleaf ≠ 0 →
      succeedAll (List.replicate m .htbStep) s = some v → succeedAll (List.replicate n .htbStep) u = some w →
      ∃ a b, exec .htbBuild v = .next a ∧ exec .htbBuild w = .next b ∧ a.err = some 0 ∧ a.rsp = b.rsp ∧
        a.nleaf = b.nleaf ∧ a.nodes = b.nodes ∧ a.heap = b.heap ∧ a.phase = b.phase ∧ a.root = b.root ∧
        a.total = b.total ∧ a.totbits = b.totbits ∧ a.cb = b.cb ∧ a.cbSrc = b.cbSrc ∧ a.fwWidth = b.fwWidth)

/-- After HTB.BUILD the codebook is prefix-free, and with at least two leaves it is complete: the sum of 2^(-len) over
the leaves is 1, here multiplied by 2^255 (`42_huffman_tree_builder.md` R208). -/
def Obligations.BuiltCodeIsPrefixFreeAndComplete : Prop :=
  ∀ s : State, BuilderOk s → s.faulted = false → s.phase ≠ .built → s.nleaf ≠ 0 →
    ∃ t, exec .htbBuild s = .next t ∧ t.err = some 0 ∧ t.leaves = s.leaves ∧ PrefixFree t.cb ∧
      (∀ n ∈ s.leaves, 1 ≤ (cbEntry t.cb n.sym).len.toNat ∧ (cbEntry t.cb n.sym).len.toNat ≤ 255) ∧
      (2 ≤ s.nleaf → (s.leaves.map fun n => 2 ^ (255 - (cbEntry t.cb n.sym).len.toNat)).sum = 2 ^ 255)

/-- TOTAL and TOTBITS after a successful HTB.BUILD or HTB.ASSIGN are exact; with at least two leaves TOTAL is the root's
weight and TOTBITS the sum of the weights of the internal nodes; with one leaf they are equal
(`42_huffman_tree_builder.md` R204). HTB.BUILD succeeds from every such state, HTB.ASSIGN when one key is left. -/
def Obligations.TotalsAreExact : Prop :=
  ∀ (s : State) (i : Instr), BuilderOk s → s.faulted = false → s.phase ≠ .built → s.nleaf ≠ 0 →
    (i = .htbBuild ∨ (i = .htbAssign ∧ s.heap.length = 1)) →
    ∃ t, exec i s = .next t ∧ t.err = some 0 ∧ t.leaves = s.leaves ∧ t.nleaf = s.nleaf ∧
      t.total.toNat = (t.leaves.map fun n => n.weight.toNat).sum ∧
      t.totbits.toNat = (t.leaves.map fun n => n.weight.toNat * ((codeOf t.cb n.sym).getD []).length).sum ∧
      (2 ≤ s.nleaf → (∃ n, t.nodes[t.root.toNat]? = some n ∧ n.weight.toNat = t.total.toNat) ∧
        t.totbits.toNat = ((t.nodes.drop t.nleaf).map fun n => n.weight.toNat).sum) ∧
      (s.nleaf = 1 → t.totbits = t.total)

/-- The whole Huffman flow from any state without a fault: HTB.COUNT and HTB.BUILD of the input, then BSS.CLR,
BSS.ENC and BSS.DEC succeed when the payload and the output fit, the stream is exactly TOTBITS long, and OBUF is the
input (`70_reset_and_hazards.md` R306, `41_bitstream_serializer.md` R159). -/
def Obligations.HuffmanFlowRoundTrips : Prop :=
  ∀ (s : State) (order : Bool), s.faulted = false → 1 ≤ s.ilen.toNat → s.ilen.toNat ≤ s.cfg.obufBytes →
    ∃ u, succeedAll [.htbCount order, .htbBuild] s = some u ∧
      (u.totbits.toNat ≤ u.cfg.bitcap →
        ∃ t, succeedAll [.bssClr, .bssEnc, .bssDec] u = some t ∧ t.bits.length = u.totbits.toNat ∧
          t.obuf = s.inputBytes)

/-! ### LZW dictionary accumulator -/

/-- `estr` and `dstr`: the byte itself below 256, else the string of the smaller prefix and the byte; a stored code
stands for at least two bytes (`10_state.md` R52). -/
def Obligations.DictionaryStringsUnfold : Prop :=
  ∀ d : List DictEntry, DictOk d →
    (∀ k : Code, k.toNat < 256 → codeString d k = [BitVec.ofNat 8 k.toNat]) ∧
    (∀ (j : Nat) (e : DictEntry), d[j]? = some e →
      codeString d (BitVec.ofNat 16 (256 + j)) = codeString d e.prefixCode ++ [e.byte] ∧
      2 ≤ (codeString d (BitVec.ofNat 16 (256 + j))).length)

/-- LZW.EBYTE: the session check; the match starts; a stored (match, byte) pair extends it; else the match is emitted
at CLEN or the command refused when CBUF is full, the pair is added under the cap, and the match becomes the byte
(`43_lzw_dict_accumulator.md` R226, R222, R223). -/
def Obligations.EncoderStepFollowsItsRule : Prop :=
  ∀ (s : State) (c : Byte), s.faulted = false →
    (s.eActive = false → exec (.lzwEbyte c) s = .next (s.refuse .state)) ∧
    (s.eActive = true → s.ew = none →
      exec (.lzwEbyte c) s = .next ({ s with ew := some (BitVec.ofNat 16 c.toNat) }.answer 0 0)) ∧
    (∀ (w : Code) (j : Nat), s.eActive = true → s.ew = some w → s.edict.Nodup → s.edict[j]? = some ⟨w, c⟩ →
      exec (.lzwEbyte c) s = .next ({ s with ew := some (BitVec.ofNat 16 (256 + j)) }.answer 0 0)) ∧
    (∀ w : Code, s.eActive = true → s.ew = some w → ⟨w, c⟩ ∉ s.edict →
      (s.clen.toNat = s.cfg.cbufWords → exec (.lzwEbyte c) s = .next (s.refuse .capacity)) ∧
      (s.clen.toNat ≠ s.cfg.cbufWords →
        ∃ t : State, exec (.lzwEbyte c) s = .next (t.answer 0 (BitVec.ofNat 32 (2 ^ 16 + w.toNat))) ∧
          t = { s with
                cbuf := t.cbuf, clen := s.clen + 1, ew := some (BitVec.ofNat 16 c.toNat),
                edict := if 256 + s.edict.length < s.lzwCap.toNat then s.edict ++ [(⟨w, c⟩ : DictEntry)] else s.edict } ∧
          ∀ a, t.cbufRead a = if a = s.clen.toNat then w else s.cbufRead a))

/-- LZW.EFLUSH: the session check; nothing to emit; a refusal when CBUF is full; else the match is emitted at CLEN and
the session closed (`43_lzw_dict_accumulator.md` R229). -/
def Obligations.EncoderFlushFollowsItsRule : Prop :=
  ∀ s : State, s.faulted = false →
    (s.eActive = false → exec .lzwEflush s = .next (s.refuse .state)) ∧
    (s.eActive = true → s.ew = none → exec .lzwEflush s = .next ({ s with eActive := false }.answer 0 0)) ∧
    (∀ e : Code, s.eActive = true → s.ew = some e →
      (s.clen.toNat = s.cfg.cbufWords → exec .lzwEflush s = .next (s.refuse .capacity)) ∧
      (s.clen.toNat ≠ s.cfg.cbufWords →
        ∃ t : State, exec .lzwEflush s = .next (t.answer 0 (BitVec.ofNat 32 (2 ^ 16 + e.toNat))) ∧
          t = { s with cbuf := t.cbuf, clen := s.clen + 1, ew := none, eActive := false } ∧
          ∀ a, t.cbufRead a = if a = s.clen.toNat then e else s.cbufRead a))

/-- LZW.ENC leaves exactly what LZW.EINIT, one LZW.EBYTE per input byte and LZW.EFLUSH would leave, none of
which is refused; CMDCNT advances by 1 and at most one code per input byte is emitted
(`43_lzw_dict_accumulator.md` R231, R232; the premise has legal parameters, log entry 8). -/
def Obligations.WholeEncodeIsStepwiseEncode : Prop :=
  ∀ s : State, BuffersFit s → s.faulted = false →
    ∃ t, succeedAll (.lzwEinit :: (s.inputBytes.map .lzwEbyte ++ [.lzwEflush])) s = some t ∧
      t.clen.toNat ≤ s.ilen.toNat ∧
      exec .lzwEnc s = .next { t with cmdcnt := s.cmdcnt + 1, rsp := some (responseWord 0 t.clen) }

/-- LZW.ENC emits the codes of the algorithm as the source words it, over a dictionary of byte sequences
(`43_lzw_dict_accumulator.md` R220). -/
def Obligations.EncoderEmitsTheTextbookCodes : Prop :=
  ∀ s : State, BuffersFit s → s.faulted = false → 256 ≤ s.lzwCap.toNat → s.lzwCap.toNat ≤ 65536 →
    ∃ t, exec .lzwEnc s = .next t ∧ t.err = some 0 ∧
      t.inputCodes.map BitVec.toNat = textbookEncode s.lzwCap.toNat [] [] s.inputBytes

/-- LZW.DCODE: the session check; the first code; a known code; the self-referential case, exactly when k = DNEXT and
the dictionary may still grow; any other code a FAULT with k, before the capacity check; the entry added under the
cap (`43_lzw_dict_accumulator.md` R236, R237). -/
def Obligations.DecoderStepFollowsItsRule : Prop :=
  ∀ (s : State) (k : Code), s.faulted = false →
    (s.dActive = false → exec (.lzwDcode k) s = .next (s.refuse .state)) ∧
    (s.dActive = true → s.dprev = none →
      (256 ≤ k.toNat → exec (.lzwDcode k) s = .next (s.fail .lzwBadCode (BitVec.ofNat 32 k.toNat))) ∧
      (k.toNat < 256 → s.cfg.obufBytes < s.obuf.length + 1 →
        exec (.lzwDcode k) s = .next (s.refuse .capacity)) ∧
      (k.toNat < 256 → s.obuf.length + 1 ≤ s.cfg.obufBytes → exec (.lzwDcode k) s =
        .next ({ s with obuf := s.obuf ++ [BitVec.ofNat 8 k.toNat], dprev := some k }.answer 0 1))) ∧
    (∀ p : Code, s.dActive = true → s.dprev = some p →
      ((256 + s.ddict.length < k.toNat ∨ (256 + s.ddict.length = k.toNat ∧ s.lzwCap.toNat ≤ 256 + s.ddict.length)) →
        exec (.lzwDcode k) s = .next (s.fail .lzwBadCode (BitVec.ofNat 32 k.toNat))) ∧
      (∀ (b : Byte) (l entry : List Byte), entry = b :: l →
        (k.toNat < 256 + s.ddict.length ∧ codeString s.ddict k = entry ∨
         k.toNat = 256 + s.ddict.length ∧ 256 + s.ddict.length < s.lzwCap.toNat ∧
          ∃ l', codeString s.ddict p = b :: l' ∧ entry = b :: l' ++ [b]) →
        (s.cfg.obufBytes < s.obuf.length + entry.length → exec (.lzwDcode k) s = .next (s.refuse .capacity)) ∧
        (s.obuf.length + entry.length ≤ s.cfg.obufBytes → exec (.lzwDcode k) s =
          .next ({ s with obuf := s.obuf ++ entry, dprev := some k,
                          ddict := if 256 + s.ddict.length < s.lzwCap.toNat then s.ddict ++ [(⟨p, b⟩ : DictEntry)]
                                   else s.ddict }.answer 0 (word32 entry.length)))))

/-- LZW.DEC is LZW.DINIT and one LZW.DCODE per code of CBUF: all succeed, and it succeeds with their effects and the
session closed; one faults, and it faults with the effects of the codes before and the index of the bad code; one is
refused for capacity, and it is refused as a whole (`43_lzw_dict_accumulator.md` R240). -/
def Obligations.WholeDecodeIsStepwiseDecode : Prop :=
  ∀ s : State, s.faulted = false →
    (∀ u, succeedAll (.lzwDinit :: s.inputCodes.map .lzwDcode) s = some u →
      exec .lzwDec s = .next ({ u with dActive := false, cmdcnt := s.cmdcnt }.answer 0 (word32 u.obuf.length))) ∧
    (∀ (j : Nat) (k : Code) (u v : State), s.inputCodes[j]? = some k →
      succeedAll (.lzwDinit :: (s.inputCodes.take j).map .lzwDcode) s = some u → exec (.lzwDcode k) u = .next v →
      (v.err = some 0x80 →
        exec .lzwDec s = .next ({ u with cmdcnt := s.cmdcnt }.fail .lzwBadCode (word32 j))) ∧
      (v.err = some 0x0A → exec .lzwDec s = .next (s.refuse .capacity)))

/-- LZW.DEC inverts the algorithm as the source words it: a code buffer that holds the codes of x decodes to x
(`43_lzw_dict_accumulator.md` R221, R241). -/
def Obligations.DecoderInvertsTheTextbookCodes : Prop :=
  ∀ (s : State) (x : List Byte), s.faulted = false → 256 ≤ s.lzwCap.toNat → s.lzwCap.toNat ≤ 65536 →
    s.inputCodes.map BitVec.toNat = textbookEncode s.lzwCap.toNat [] [] x → x.length ≤ s.cfg.obufBytes →
    ∃ d p, exec .lzwDec s =
      .next ({ s with obuf := x, ddict := d, dprev := p, dActive := false }.answer 0 (word32 x.length))

/-- Round trip of the LZW coder, under every cap: LZW.ENC and LZW.DEC succeed, OBUF is the input, and the two
dictionaries end up equal (`43_lzw_dict_accumulator.md` R241, R238). -/
def Obligations.LzwRoundTrips : Prop :=
  ∀ s : State, BuffersFit s → s.faulted = false → 256 ≤ s.lzwCap.toNat → s.lzwCap.toNat ≤ 65536 →
    s.ilen.toNat ≤ s.cfg.obufBytes →
    ∃ t, succeedAll [.lzwEnc, .lzwDec] s = some t ∧ t.olen = s.ilen.toNat ∧ t.obuf = s.inputBytes ∧
      t.ddict = t.edict ∧ t.eActive = false ∧ t.dActive = false

/-- The invariants of the LZW state that are about byte sequences (`10_state.md` R53): no two codes of EDICT stand for one
sequence (a); NEXT stays within the cap unless LZW_CAP itself is written (b); entries are only added but by the commands
that start anew (c); every beginning of a code's sequence is the sequence of a code not above it (d).
Of DDICT, R53 (a) is stated as far as the decoder's own rule keeps it: every command but the two decoding ones keeps it;
so does every code list an encoder makes, whole or cut short, by LZW.DCODE and by LZW.DEC; and on any code, LZW.DCODE
keeps it exactly when the pair it adds is not stored already. Beyond that R53 (a) and `43_lzw_dict_accumulator.md` R236
contradict each other, nothing in spec/ rules between the two, and that R236 is followed is the model's choice (log
entry 10). -/
def Obligations.DictionarySequencesStayDistinct : Prop :=
  (∀ s : State, LzwOk s →
    SequencesDistinct s.edict ∧
    ∀ d ∈ [s.edict, s.ddict], ∀ (k : Code) (p : List Byte), k.toNat < 256 + d.length → p ≠ [] →
      p <+: codeString d k → ∃ j : Code, j.toNat ≤ k.toNat ∧ codeString d j = p) ∧
  (∀ (s t : State) (i : Instr), LzwOk s → exec i s = .next t →
    (i ≠ .reset → i ≠ .lzwEinit → i ≠ .lzwEnc → s.edict <+: t.edict) ∧
    (i ≠ .reset → i ≠ .lzwDinit → i ≠ .lzwDec → s.ddict <+: t.ddict) ∧
    ((∀ v, i ≠ .wr 0 0x09 v) →
      (s.enext ≤ s.lzwCap.toNat → t.enext ≤ t.lzwCap.toNat) ∧
      (s.dnext ≤ s.lzwCap.toNat → t.dnext ≤ t.lzwCap.toNat))) ∧
  (∀ (s t : State) (i : Instr), SequencesDistinct s.ddict → i ≠ .lzwDec → (∀ k, i ≠ .lzwDcode k) →
    exec i s = .next t → SequencesDistinct t.ddict) ∧
  (∀ (s t : State) (x : List Byte) (codes : List Code), 256 ≤ s.lzwCap.toNat → s.lzwCap.toNat ≤ 65536 →
    codes.map BitVec.toNat <+: textbookEncode s.lzwCap.toNat [] [] x →
    succeedAll (.lzwDinit :: codes.map .lzwDcode) s = some t → SequencesDistinct t.ddict) ∧
  (∀ (s t : State) (x : List Byte), LzwOk s → SequencesDistinct s.ddict →
    s.inputCodes.map BitVec.toNat <+: textbookEncode s.lzwCap.toNat [] [] x →
    exec .lzwDec s = .next t → SequencesDistinct t.ddict) ∧
  (∀ (s t : State) (k : Code), LzwOk s → SequencesDistinct s.ddict → exec (.lzwDcode k) s = .next t →
    t.ddict = s.ddict ∨ ∃ e, t.ddict = s.ddict ++ [e] ∧ (SequencesDistinct t.ddict ↔ e ∉ s.ddict))

/-! ### Fixed-width coder -/

/-- FW.ASSIGN: the refusals in order; else the least width that tells the leaves apart, at least 1; leaf i gets
the number i in that many bits, every other symbol no code; the codebook is prefix-free and the totals are exact
(`44_fixed_width.md` R251 to R254). -/
def Obligations.FixedAssignNumbersTheLeaves : Prop :=
  ∀ s : State, s.faulted = false →
    (s.phase ≠ .load → exec .fwAssign s = .next (s.refuse .state)) ∧
    (s.phase = .load → s.nleaf = 0 → exec .fwAssign s = .next (s.refuse .empty)) ∧
    (LeavesOk s → s.phase = .load → s.nleaf ≠ 0 →
      ∃ (b : Nat) (cb : Vector CbEntry 256) (total totbits : BitVec 64),
        (1 ≤ b ∧ b ≤ 8 ∧ s.nleaf ≤ 2 ^ b ∧ ∀ b', 1 ≤ b' → s.nleaf ≤ 2 ^ b' → b ≤ b') ∧
        exec .fwAssign s = .next (
          { s with cb := cb, total := total, totbits := totbits, cbSrc := .fixed, fwWidth := BitVec.ofNat 4 b,
                   phase := .built }.answer 0 (word32 b)) ∧
        (∀ (i : Nat) (n : Node), s.leaves[i]? = some n →
          cbEntry cb n.sym = ⟨true, BitVec.ofNat 9 b, BitVec.ofNat 256 i⟩ ∧ codeOf cb n.sym = some (bitsOf b i)) ∧
        (∀ sym, (∀ n ∈ s.leaves, n.sym ≠ sym) → cbEntry cb sym = CbEntry.cleared) ∧ PrefixFree cb ∧
        total.toNat = (s.leaves.map fun n => n.weight.toNat).sum ∧ totbits.toNat = total.toNat * b)

/-- FW.ENC: refused unless the codebook is FIXED; else the stream is the 3-bit padding count, the codes, the padding
zeros, a whole number of bytes, or a refusal when it does not fit (`44_fixed_width.md` R255, R257). -/
def Obligations.FixedEncodeFramesTheCodes : Prop :=
  ∀ s : State, s.faulted = false →
    (s.cbSrc ≠ .fixed → exec .fwEnc s = .next (s.refuse .state)) ∧
    (∀ (data : List Bool) (pad : Nat), s.cbSrc = .fixed →
      data = (((List.range s.ilen.toNat).map s.ibufRead).filterMap (codeOf s.cb)).flatten →
      pad < 8 → (3 + data.length + pad) % 8 = 0 →
      (s.cfg.bitcap < 3 + data.length + pad → exec .fwEnc s = .next (s.refuse .capacity)) ∧
      (3 + data.length + pad ≤ s.cfg.bitcap → exec .fwEnc s =
        .next ({ s with bits := bitsOf 3 pad ++ data ++ List.replicate pad false }.answer 0
          (word32 (3 + data.length + pad)))))

/-- FW.DEC: refused unless the codebook is FIXED; a stream that is not framed faults with an empty OBUF; else the
groups of FW_WIDTH bits are looked up one after another in the leaf table, the first number that is no leaf faults with
the output so far and its bit index, and an output that does not fit is refused (`44_fixed_width.md` R258). -/
def Obligations.FixedDecodeReadsTheGroups : Prop :=
  ∀ s : State, s.faulted = false →
    (s.cbSrc ≠ .fixed → exec .fwDec s = .next (s.refuse .state)) ∧
    (∀ (b pad n : Nat) (group : Nat → Nat), s.cbSrc = .fixed → b = s.fwWidth.toNat → 1 ≤ b →
      pad = bitsVal (s.bits.take 3) → n = (s.bits.length - 3 - pad) / b →
      (∀ j, group j = bitsVal ((s.bits.drop (3 + j * b)).take b)) →
      (s.bits.length < 3 ∨ s.bits.length < 3 + pad ∨ (s.bits.length - 3 - pad) % b ≠ 0 →
        exec .fwDec s = .next ({ s with obuf := [] }.fail .format 0)) ∧
      (3 + pad ≤ s.bits.length → (s.bits.length - 3 - pad) % b = 0 → 3 ≤ s.bits.length →
        (∀ out : List Byte, out.length = n → n ≤ s.cfg.obufBytes →
          (∀ j, j < n → (s.leaves[group j]?).map Node.sym = out[j]?) →
          exec .fwDec s = .next ({ s with obuf := out }.answer 0 (word32 n))) ∧
        (∀ (out : List Byte), out.length < n → out.length ≤ s.cfg.obufBytes →
          (∀ j, j < out.length → (s.leaves[group j]?).map Node.sym = out[j]?) →
          s.leaves.length ≤ group out.length →
          exec .fwDec s = .next ({ s with obuf := out }.fail .noCode (word32 (3 + out.length * b)))) ∧
        (s.cfg.obufBytes < n → (∀ j, j ≤ s.cfg.obufBytes → group j < s.leaves.length) →
          exec .fwDec s = .next (s.refuse .capacity))))

/-- Round trip of the fixed-width coder: with a FIXED codebook that has a code for every input symbol, FW.ENC and
FW.DEC succeed when the results fit, and OBUF is the input (`44_fixed_width.md` R259). -/
def Obligations.FixedWidthRoundTrips : Prop :=
  ∀ s : State, LeavesOk s → CodebookOk s → s.faulted = false → s.cbSrc = .fixed →
    (∀ c ∈ s.inputBytes, codeOf s.cb c ≠ none) →
    (framed (encodeBytes s.cb s.inputBytes)).length ≤ s.cfg.bitcap → s.ilen.toNat ≤ s.cfg.obufBytes →
    ∃ t, succeedAll [.fwEnc, .fwDec] s = some t ∧ t.olen = s.ilen.toNat ∧ t.obuf = s.inputBytes

/-! ### Invariants -/

/-- The state after a reset of the default instance, `State.reset`, meets every invariant (`10_state.md` R60 with R28 to
R53). It has the default parameters of `00_scope.md` R5 (log entry 3), which are legal by R6, and no host input or
response yet (log entry 4). -/
def Obligations.ResetMeetsTheInvariants : Prop := Inv State.reset

/-- Every step keeps the buffers and their lengths inside the capacities and the written cells in canonical form
(`10_state.md` R28 to R31, `00_scope.md` R6; the canonical form is the model's, log entry 2). -/
def Obligations.StepKeepsBuffersInside : Prop :=
  ∀ s t : State, BuffersFit s → step s = .next t → BuffersFit t

/-- Every step keeps the heap property (`10_state.md` R40 (f)). -/
def Obligations.StepKeepsHeapOrder : Prop :=
  ∀ s t : State, HeapOrdered s.heap → step s = .next t → HeapOrdered t.heap

/-- Every step keeps the invariants of the tree builder: leaves, counts of each phase, the forest and its weights
(`10_state.md` R34, R35, R37, R40). -/
def Obligations.StepKeepsTheForest : Prop :=
  ∀ s t : State, BuilderOk s → step s = .next t → BuilderOk t

/-- Every step keeps what CB_SRC says of the codebook, prefix-freedom among it (`10_state.md` R39, R42, R44, R46). -/
def Obligations.StepKeepsTheCodebook : Prop :=
  ∀ s t : State, BuilderOk s → CodebookOk s → step s = .next t → CodebookOk t

/-- Every step keeps the invariants of the LZW state: the cap, prefixes that are smaller codes, no pair stored twice
in the encoder's dictionary, match registers below NEXT (`10_state.md` R47 to R51, R53). -/
def Obligations.StepKeepsTheDictionaries : Prop :=
  ∀ s t : State, LzwOk s → step s = .next t → LzwOk t
end

