-- ==== Sys2Proof/Laws/Bits.lean ====
section
/-! SUPPORT. Lengths of bit and byte sequences, and what single places of them hold. -/

namespace Sys2Proof.Machine

@[simp] theorem bitsOf_length (n v : Nat) : (bitsOf n v).length = n := by simp [bitsOf]

/-- Bit i of `bits_n(v)` is bit n-1-i of v. -/
theorem bitsOf_getElem (n v i : Nat) (h : i < (bitsOf n v).length) : (bitsOf n v)[i] = v.testBit (n - 1 - i) := by
  simp [bitsOf]

@[simp] theorem toBytes_length (s : List Bool) : (toBytes s).length = bytesFor s.length := by simp [toBytes]

@[simp] theorem fromBytes_length (buf : List Byte) (n : Nat) : (fromBytes buf n).length = n := by simp [fromBytes]

@[simp] theorem lengthHeader_length (n : Word32) : (lengthHeader n).length = 4 := rfl

@[simp] theorem bitsVal_nil : bitsVal [] = 0 := rfl

/-- One more low-order bit doubles the number. -/
@[simp] theorem bitsVal_concat (s : List Bool) (b : Bool) : bitsVal (s ++ [b]) = 2 * bitsVal s + b.toNat := by
  simp [bitsVal]

/-- A number of n bits is below `2^n`. -/
theorem bitsVal_lt (s : List Bool) : bitsVal s < 2 ^ s.length := by
  induction s using List.reverseRecOn with
  | nil => simp
  | append_singleton s b ih =>
    rw [bitsVal_concat, List.length_append, List.length_singleton, pow_succ]
    have := b.toNat_le
    omega

/-- The `n + 1` bits of a number are the n bits of its half and its lowest bit. -/
theorem bitsOf_succ (n v : Nat) : bitsOf (n + 1) v = bitsOf n (v / 2) ++ [v.testBit 0] := by
  refine List.ext_getElem (by simp) fun i h1 h2 => ?_
  rw [bitsOf_getElem]
  simp only [bitsOf_length] at h1
  by_cases hi : i < n
  · rw [List.getElem_append_left (by simpa using hi), bitsOf_getElem, Nat.testBit_div_two]
    congr 1
    omega
  · obtain rfl : i = n := by omega
    simp

/-- `val(bits_n(v))` is the n low bits of v. -/
theorem bitsVal_bitsOf (n v : Nat) : bitsVal (bitsOf n v) = v % 2 ^ n := by
  induction n generalizing v with
  | zero => simp [bitsOf, Nat.mod_one]
  | succ n ih =>
    rw [bitsOf_succ, bitsVal_concat, ih, pow_succ']
    have h1 := Nat.mod_mul (x := v) (a := 2) (b := 2 ^ n)
    have h2 : (v.testBit 0).toNat = v % 2 := by
      simp only [Nat.testBit_zero]
      rcases Nat.mod_two_eq_zero_or_one v with h | h <;> simp [h]
    omega

/-- `bits_n(val(s))` is s again. -/
theorem bitsOf_bitsVal (s : List Bool) : bitsOf s.length (bitsVal s) = s := by
  induction s using List.reverseRecOn with
  | nil => rfl
  | append_singleton s b ih =>
    have h1 : (2 * bitsVal s + b.toNat) / 2 = bitsVal s := by
      have := b.toNat_le
      omega
    have h2 : (2 * bitsVal s + b.toNat).testBit 0 = b := by
      cases b <;> simp [Nat.testBit_zero]
    rw [List.length_append, List.length_singleton, bitsVal_concat, bitsOf_succ, h1, h2, ih]

end Sys2Proof.Machine
end

