-- ==== Sys2Proof/Laws/Heap.lean ====
section
/-! SUPPORT. The heap operations move keys and lose none. -/

namespace Sys2Proof.Machine

@[simp] theorem heapSwap_length (h : List HeapKey) (i j : Nat) : (heapSwap h i j).length = h.length := by
  unfold heapSwap
  split <;> simp

theorem heapSwap_perm (h : List HeapKey) (i j : Nat) : (heapSwap h i j).Perm h := by
  unfold heapSwap
  split
  · rename_i a b ha hb
    obtain ⟨hi, rfl⟩ := List.getElem?_eq_some_iff.1 ha
    obtain ⟨hj, rfl⟩ := List.getElem?_eq_some_iff.1 hb
    exact List.set_set_perm hi hj
  · exact .rfl

theorem siftUp_perm (fuel : Nat) (h : List HeapKey) (i : Nat) : (siftUp fuel h i).Perm h := by
  induction fuel generalizing h i with
  | zero => exact .rfl
  | succ fuel ih =>
    unfold siftUp
    split
    · exact .rfl
    · split
      · exact (ih _ _).trans (heapSwap_perm ..)
      · exact .rfl

/-- `heap_push` adds the key to the keys of the heap. -/
theorem heapPush_perm (h : List HeapKey) (k : HeapKey) : (heapPush h k).Perm (k :: h) :=
  (siftUp_perm _ _ _).trans (List.perm_append_singleton k h)

@[simp] theorem heapPush_length (h : List HeapKey) (k : HeapKey) : (heapPush h k).length = h.length + 1 := by
  simpa using (heapPush_perm h k).length_eq

theorem siftDown_perm (fuel : Nat) (h : List HeapKey) (i : Nat) : (siftDown fuel h i).Perm h := by
  induction fuel generalizing h i with
  | zero => exact .rfl
  | succ fuel ih =>
    unfold siftDown
    split
    · exact .rfl
    · exact (ih _ _).trans (heapSwap_perm ..)

/-- `heap_pop` takes the key of slot 0 and keeps the others. -/
theorem heapPop_perm {h h' : List HeapKey} {k : HeapKey} (e : heapPop h = some (k, h')) :
    h.head? = some k ∧ h.Perm (k :: h') := by
  cases h with
  | nil => simp [heapPop] at e
  | cons r tail =>
    unfold heapPop at e
    dsimp only at e
    cases hl : tail.getLast? with
    | none =>
      rw [hl] at e
      simp only [Option.some.injEq, Prod.mk.injEq] at e
      obtain ⟨rfl, rfl⟩ := e
      simp [List.getLast?_eq_none_iff.1 hl]
    | some last =>
      rw [hl] at e
      simp only [Option.some.injEq, Prod.mk.injEq] at e
      obtain ⟨rfl, rfl⟩ := e
      refine ⟨rfl, List.Perm.cons _ ?_⟩
      have h1 : tail = tail.dropLast ++ [last] := by
        obtain ⟨ys, rfl⟩ := List.getLast?_eq_some_iff.1 hl
        simp
      have h2 : tail.Perm (last :: tail.dropLast) := by
        conv_lhs => rw [h1]
        exact List.perm_append_singleton _ _
      exact h2.trans (siftDown_perm _ _ _).symm

/-- `heap_pop` answers exactly when the heap is not empty. -/
theorem heapPop_isSome (h : List HeapKey) : (heapPop h).isSome = !h.isEmpty := by
  cases h with
  | nil => rfl
  | cons r tail =>
    unfold heapPop
    dsimp only
    cases tail.getLast? <;> rfl

theorem heapPop_length {h h' : List HeapKey} {k : HeapKey} (e : heapPop h = some (k, h')) :
    h.length = h'.length + 1 := by
  simpa using (heapPop_perm e).2.length_eq

end Sys2Proof.Machine
end

