-- ==== Sys2Proof/Laws/State.lean ====
section
/-! SUPPORT. One lemma per field and named update of the state, true by rfl, so that no proof unfolds a record
update. -/

namespace Sys2Proof.Machine

variable (s : State)

/-! `State.answer` -/

@[simp] theorem answer_cfg (e : BitVec 8) (d : Word32) : (s.answer e d).cfg = s.cfg := rfl
@[simp] theorem answer_faulted (e : BitVec 8) (d : Word32) : (s.answer e d).faulted = s.faulted := rfl
@[simp] theorem answer_errcode (e : BitVec 8) (d : Word32) : (s.answer e d).errcode = s.errcode := rfl
@[simp] theorem answer_errinfo (e : BitVec 8) (d : Word32) : (s.answer e d).errinfo = s.errinfo := rfl
@[simp] theorem answer_cmdcnt (e : BitVec 8) (d : Word32) : (s.answer e d).cmdcnt = s.cmdcnt + 1 := rfl
@[simp] theorem answer_ibuf (e : BitVec 8) (d : Word32) : (s.answer e d).ibuf = s.ibuf := rfl
@[simp] theorem answer_ilen (e : BitVec 8) (d : Word32) : (s.answer e d).ilen = s.ilen := rfl
@[simp] theorem answer_obuf (e : BitVec 8) (d : Word32) : (s.answer e d).obuf = s.obuf := rfl
@[simp] theorem answer_bits (e : BitVec 8) (d : Word32) : (s.answer e d).bits = s.bits := rfl
@[simp] theorem answer_cbuf (e : BitVec 8) (d : Word32) : (s.answer e d).cbuf = s.cbuf := rfl
@[simp] theorem answer_clen (e : BitVec 8) (d : Word32) : (s.answer e d).clen = s.clen := rfl
@[simp] theorem answer_nleaf (e : BitVec 8) (d : Word32) : (s.answer e d).nleaf = s.nleaf := rfl
@[simp] theorem answer_nodes (e : BitVec 8) (d : Word32) : (s.answer e d).nodes = s.nodes := rfl
@[simp] theorem answer_heap (e : BitVec 8) (d : Word32) : (s.answer e d).heap = s.heap := rfl
@[simp] theorem answer_phase (e : BitVec 8) (d : Word32) : (s.answer e d).phase = s.phase := rfl
@[simp] theorem answer_root (e : BitVec 8) (d : Word32) : (s.answer e d).root = s.root := rfl
@[simp] theorem answer_total (e : BitVec 8) (d : Word32) : (s.answer e d).total = s.total := rfl
@[simp] theorem answer_totbits (e : BitVec 8) (d : Word32) : (s.answer e d).totbits = s.totbits := rfl
@[simp] theorem answer_fwWidth (e : BitVec 8) (d : Word32) : (s.answer e d).fwWidth = s.fwWidth := rfl
@[simp] theorem answer_cb (e : BitVec 8) (d : Word32) : (s.answer e d).cb = s.cb := rfl
@[simp] theorem answer_cbSrc (e : BitVec 8) (d : Word32) : (s.answer e d).cbSrc = s.cbSrc := rfl
@[simp] theorem answer_lzwCap (e : BitVec 8) (d : Word32) : (s.answer e d).lzwCap = s.lzwCap := rfl
@[simp] theorem answer_edict (e : BitVec 8) (d : Word32) : (s.answer e d).edict = s.edict := rfl
@[simp] theorem answer_ew (e : BitVec 8) (d : Word32) : (s.answer e d).ew = s.ew := rfl
@[simp] theorem answer_eActive (e : BitVec 8) (d : Word32) : (s.answer e d).eActive = s.eActive := rfl
@[simp] theorem answer_ddict (e : BitVec 8) (d : Word32) : (s.answer e d).ddict = s.ddict := rfl
@[simp] theorem answer_dprev (e : BitVec 8) (d : Word32) : (s.answer e d).dprev = s.dprev := rfl
@[simp] theorem answer_dActive (e : BitVec 8) (d : Word32) : (s.answer e d).dActive = s.dActive := rfl
@[simp] theorem answer_epoch (e : BitVec 8) (d : Word32) : (s.answer e d).epoch = s.epoch := rfl
@[simp] theorem answer_inputs (e : BitVec 8) (d : Word32) : (s.answer e d).inputs = s.inputs := rfl
@[simp] theorem answer_rsp (e : BitVec 8) (d : Word32) : (s.answer e d).rsp = some (responseWord e d) := rfl
@[simp] theorem answer_responses (e : BitVec 8) (d : Word32) : (s.answer e d).responses = s.responses := rfl

/-! `State.takeFault` -/

@[simp] theorem takeFault_cfg (c : FaultCode) (info : Word32) : (s.takeFault c info).cfg = s.cfg := rfl
@[simp] theorem takeFault_faulted (c : FaultCode) (info : Word32) : (s.takeFault c info).faulted = true := rfl
@[simp] theorem takeFault_errcode (c : FaultCode) (info : Word32) : (s.takeFault c info).errcode = c.byte := rfl
@[simp] theorem takeFault_errinfo (c : FaultCode) (info : Word32) : (s.takeFault c info).errinfo = info := rfl
@[simp] theorem takeFault_cmdcnt (c : FaultCode) (info : Word32) : (s.takeFault c info).cmdcnt = s.cmdcnt := rfl
@[simp] theorem takeFault_ibuf (c : FaultCode) (info : Word32) : (s.takeFault c info).ibuf = s.ibuf := rfl
@[simp] theorem takeFault_ilen (c : FaultCode) (info : Word32) : (s.takeFault c info).ilen = s.ilen := rfl
@[simp] theorem takeFault_obuf (c : FaultCode) (info : Word32) : (s.takeFault c info).obuf = s.obuf := rfl
@[simp] theorem takeFault_bits (c : FaultCode) (info : Word32) : (s.takeFault c info).bits = s.bits := rfl
@[simp] theorem takeFault_cbuf (c : FaultCode) (info : Word32) : (s.takeFault c info).cbuf = s.cbuf := rfl
@[simp] theorem takeFault_clen (c : FaultCode) (info : Word32) : (s.takeFault c info).clen = s.clen := rfl
@[simp] theorem takeFault_nleaf (c : FaultCode) (info : Word32) : (s.takeFault c info).nleaf = s.nleaf := rfl
@[simp] theorem takeFault_nodes (c : FaultCode) (info : Word32) : (s.takeFault c info).nodes = s.nodes := rfl
@[simp] theorem takeFault_heap (c : FaultCode) (info : Word32) : (s.takeFault c info).heap = s.heap := rfl
@[simp] theorem takeFault_phase (c : FaultCode) (info : Word32) : (s.takeFault c info).phase = s.phase := rfl
@[simp] theorem takeFault_root (c : FaultCode) (info : Word32) : (s.takeFault c info).root = s.root := rfl
@[simp] theorem takeFault_total (c : FaultCode) (info : Word32) : (s.takeFault c info).total = s.total := rfl
@[simp] theorem takeFault_totbits (c : FaultCode) (info : Word32) : (s.takeFault c info).totbits = s.totbits := rfl
@[simp] theorem takeFault_fwWidth (c : FaultCode) (info : Word32) : (s.takeFault c info).fwWidth = s.fwWidth := rfl
@[simp] theorem takeFault_cb (c : FaultCode) (info : Word32) : (s.takeFault c info).cb = s.cb := rfl
@[simp] theorem takeFault_cbSrc (c : FaultCode) (info : Word32) : (s.takeFault c info).cbSrc = s.cbSrc := rfl
@[simp] theorem takeFault_lzwCap (c : FaultCode) (info : Word32) : (s.takeFault c info).lzwCap = s.lzwCap := rfl
@[simp] theorem takeFault_edict (c : FaultCode) (info : Word32) : (s.takeFault c info).edict = s.edict := rfl
@[simp] theorem takeFault_ew (c : FaultCode) (info : Word32) : (s.takeFault c info).ew = s.ew := rfl
@[simp] theorem takeFault_eActive (c : FaultCode) (info : Word32) : (s.takeFault c info).eActive = s.eActive := rfl
@[simp] theorem takeFault_ddict (c : FaultCode) (info : Word32) : (s.takeFault c info).ddict = s.ddict := rfl
@[simp] theorem takeFault_dprev (c : FaultCode) (info : Word32) : (s.takeFault c info).dprev = s.dprev := rfl
@[simp] theorem takeFault_dActive (c : FaultCode) (info : Word32) : (s.takeFault c info).dActive = s.dActive := rfl
@[simp] theorem takeFault_epoch (c : FaultCode) (info : Word32) : (s.takeFault c info).epoch = s.epoch := rfl
@[simp] theorem takeFault_inputs (c : FaultCode) (info : Word32) : (s.takeFault c info).inputs = s.inputs := rfl
@[simp] theorem takeFault_rsp (c : FaultCode) (info : Word32) : (s.takeFault c info).rsp = s.rsp := rfl
@[simp] theorem takeFault_responses (c : FaultCode) (info : Word32) : (s.takeFault c info).responses = s.responses := rfl

/-! `State.transferResponse` -/

@[simp] theorem transferResponse_cfg : (s.transferResponse).cfg = s.cfg := rfl
@[simp] theorem transferResponse_faulted : (s.transferResponse).faulted = s.faulted := rfl
@[simp] theorem transferResponse_errcode : (s.transferResponse).errcode = s.errcode := rfl
@[simp] theorem transferResponse_errinfo : (s.transferResponse).errinfo = s.errinfo := rfl
@[simp] theorem transferResponse_cmdcnt : (s.transferResponse).cmdcnt = s.cmdcnt := rfl
@[simp] theorem transferResponse_ibuf : (s.transferResponse).ibuf = s.ibuf := rfl
@[simp] theorem transferResponse_ilen : (s.transferResponse).ilen = s.ilen := rfl
@[simp] theorem transferResponse_obuf : (s.transferResponse).obuf = s.obuf := rfl
@[simp] theorem transferResponse_bits : (s.transferResponse).bits = s.bits := rfl
@[simp] theorem transferResponse_cbuf : (s.transferResponse).cbuf = s.cbuf := rfl
@[simp] theorem transferResponse_clen : (s.transferResponse).clen = s.clen := rfl
@[simp] theorem transferResponse_nleaf : (s.transferResponse).nleaf = s.nleaf := rfl
@[simp] theorem transferResponse_nodes : (s.transferResponse).nodes = s.nodes := rfl
@[simp] theorem transferResponse_heap : (s.transferResponse).heap = s.heap := rfl
@[simp] theorem transferResponse_phase : (s.transferResponse).phase = s.phase := rfl
@[simp] theorem transferResponse_root : (s.transferResponse).root = s.root := rfl
@[simp] theorem transferResponse_total : (s.transferResponse).total = s.total := rfl
@[simp] theorem transferResponse_totbits : (s.transferResponse).totbits = s.totbits := rfl
@[simp] theorem transferResponse_fwWidth : (s.transferResponse).fwWidth = s.fwWidth := rfl
@[simp] theorem transferResponse_cb : (s.transferResponse).cb = s.cb := rfl
@[simp] theorem transferResponse_cbSrc : (s.transferResponse).cbSrc = s.cbSrc := rfl
@[simp] theorem transferResponse_lzwCap : (s.transferResponse).lzwCap = s.lzwCap := rfl
@[simp] theorem transferResponse_edict : (s.transferResponse).edict = s.edict := rfl
@[simp] theorem transferResponse_ew : (s.transferResponse).ew = s.ew := rfl
@[simp] theorem transferResponse_eActive : (s.transferResponse).eActive = s.eActive := rfl
@[simp] theorem transferResponse_ddict : (s.transferResponse).ddict = s.ddict := rfl
@[simp] theorem transferResponse_dprev : (s.transferResponse).dprev = s.dprev := rfl
@[simp] theorem transferResponse_dActive : (s.transferResponse).dActive = s.dActive := rfl
@[simp] theorem transferResponse_epoch : (s.transferResponse).epoch = s.epoch := rfl
@[simp] theorem transferResponse_inputs : (s.transferResponse).inputs = s.inputs := rfl
@[simp] theorem transferResponse_rsp : (s.transferResponse).rsp = none := rfl
@[simp] theorem transferResponse_responses : (s.transferResponse).responses = s.responses ++ s.rsp.toList := rfl

/-! `State.presentWord` -/

@[simp] theorem presentWord_cfg (w : Word64) : (s.presentWord w).cfg = s.cfg := rfl
@[simp] theorem presentWord_faulted (w : Word64) : (s.presentWord w).faulted = s.faulted := rfl
@[simp] theorem presentWord_errcode (w : Word64) : (s.presentWord w).errcode = s.errcode := rfl
@[simp] theorem presentWord_errinfo (w : Word64) : (s.presentWord w).errinfo = s.errinfo := rfl
@[simp] theorem presentWord_cmdcnt (w : Word64) : (s.presentWord w).cmdcnt = s.cmdcnt := rfl
@[simp] theorem presentWord_ibuf (w : Word64) : (s.presentWord w).ibuf = s.ibuf := rfl
@[simp] theorem presentWord_ilen (w : Word64) : (s.presentWord w).ilen = s.ilen := rfl
@[simp] theorem presentWord_obuf (w : Word64) : (s.presentWord w).obuf = s.obuf := rfl
@[simp] theorem presentWord_bits (w : Word64) : (s.presentWord w).bits = s.bits := rfl
@[simp] theorem presentWord_cbuf (w : Word64) : (s.presentWord w).cbuf = s.cbuf := rfl
@[simp] theorem presentWord_clen (w : Word64) : (s.presentWord w).clen = s.clen := rfl
@[simp] theorem presentWord_nleaf (w : Word64) : (s.presentWord w).nleaf = s.nleaf := rfl
@[simp] theorem presentWord_nodes (w : Word64) : (s.presentWord w).nodes = s.nodes := rfl
@[simp] theorem presentWord_heap (w : Word64) : (s.presentWord w).heap = s.heap := rfl
@[simp] theorem presentWord_phase (w : Word64) : (s.presentWord w).phase = s.phase := rfl
@[simp] theorem presentWord_root (w : Word64) : (s.presentWord w).root = s.root := rfl
@[simp] theorem presentWord_total (w : Word64) : (s.presentWord w).total = s.total := rfl
@[simp] theorem presentWord_totbits (w : Word64) : (s.presentWord w).totbits = s.totbits := rfl
@[simp] theorem presentWord_fwWidth (w : Word64) : (s.presentWord w).fwWidth = s.fwWidth := rfl
@[simp] theorem presentWord_cb (w : Word64) : (s.presentWord w).cb = s.cb := rfl
@[simp] theorem presentWord_cbSrc (w : Word64) : (s.presentWord w).cbSrc = s.cbSrc := rfl
@[simp] theorem presentWord_lzwCap (w : Word64) : (s.presentWord w).lzwCap = s.lzwCap := rfl
@[simp] theorem presentWord_edict (w : Word64) : (s.presentWord w).edict = s.edict := rfl
@[simp] theorem presentWord_ew (w : Word64) : (s.presentWord w).ew = s.ew := rfl
@[simp] theorem presentWord_eActive (w : Word64) : (s.presentWord w).eActive = s.eActive := rfl
@[simp] theorem presentWord_ddict (w : Word64) : (s.presentWord w).ddict = s.ddict := rfl
@[simp] theorem presentWord_dprev (w : Word64) : (s.presentWord w).dprev = s.dprev := rfl
@[simp] theorem presentWord_dActive (w : Word64) : (s.presentWord w).dActive = s.dActive := rfl
@[simp] theorem presentWord_epoch (w : Word64) : (s.presentWord w).epoch = s.epoch := rfl
@[simp] theorem presentWord_inputs (w : Word64) : (s.presentWord w).inputs = .command w :: s.inputs := rfl
@[simp] theorem presentWord_rsp (w : Word64) : (s.presentWord w).rsp = s.rsp := rfl
@[simp] theorem presentWord_responses (w : Word64) : (s.presentWord w).responses = s.responses := rfl

/-! `State.ibufWrite` -/

@[simp] theorem ibufWrite_cfg (a : Nat) (v : Byte) : (s.ibufWrite a v).cfg = s.cfg := rfl
@[simp] theorem ibufWrite_faulted (a : Nat) (v : Byte) : (s.ibufWrite a v).faulted = s.faulted := rfl
@[simp] theorem ibufWrite_errcode (a : Nat) (v : Byte) : (s.ibufWrite a v).errcode = s.errcode := rfl
@[simp] theorem ibufWrite_errinfo (a : Nat) (v : Byte) : (s.ibufWrite a v).errinfo = s.errinfo := rfl
@[simp] theorem ibufWrite_cmdcnt (a : Nat) (v : Byte) : (s.ibufWrite a v).cmdcnt = s.cmdcnt := rfl
@[simp] theorem ibufWrite_ibuf (a : Nat) (v : Byte) : (s.ibufWrite a v).ibuf = Memory.insert s.ibuf a v := rfl
@[simp] theorem ibufWrite_ilen (a : Nat) (v : Byte) : (s.ibufWrite a v).ilen = s.ilen := rfl
@[simp] theorem ibufWrite_obuf (a : Nat) (v : Byte) : (s.ibufWrite a v).obuf = s.obuf := rfl
@[simp] theorem ibufWrite_bits (a : Nat) (v : Byte) : (s.ibufWrite a v).bits = s.bits := rfl
@[simp] theorem ibufWrite_cbuf (a : Nat) (v : Byte) : (s.ibufWrite a v).cbuf = s.cbuf := rfl
@[simp] theorem ibufWrite_clen (a : Nat) (v : Byte) : (s.ibufWrite a v).clen = s.clen := rfl
@[simp] theorem ibufWrite_nleaf (a : Nat) (v : Byte) : (s.ibufWrite a v).nleaf = s.nleaf := rfl
@[simp] theorem ibufWrite_nodes (a : Nat) (v : Byte) : (s.ibufWrite a v).nodes = s.nodes := rfl
@[simp] theorem ibufWrite_heap (a : Nat) (v : Byte) : (s.ibufWrite a v).heap = s.heap := rfl
@[simp] theorem ibufWrite_phase (a : Nat) (v : Byte) : (s.ibufWrite a v).phase = s.phase := rfl
@[simp] theorem ibufWrite_root (a : Nat) (v : Byte) : (s.ibufWrite a v).root = s.root := rfl
@[simp] theorem ibufWrite_total (a : Nat) (v : Byte) : (s.ibufWrite a v).total = s.total := rfl
@[simp] theorem ibufWrite_totbits (a : Nat) (v : Byte) : (s.ibufWrite a v).totbits = s.totbits := rfl
@[simp] theorem ibufWrite_fwWidth (a : Nat) (v : Byte) : (s.ibufWrite a v).fwWidth = s.fwWidth := rfl
@[simp] theorem ibufWrite_cb (a : Nat) (v : Byte) : (s.ibufWrite a v).cb = s.cb := rfl
@[simp] theorem ibufWrite_cbSrc (a : Nat) (v : Byte) : (s.ibufWrite a v).cbSrc = s.cbSrc := rfl
@[simp] theorem ibufWrite_lzwCap (a : Nat) (v : Byte) : (s.ibufWrite a v).lzwCap = s.lzwCap := rfl
@[simp] theorem ibufWrite_edict (a : Nat) (v : Byte) : (s.ibufWrite a v).edict = s.edict := rfl
@[simp] theorem ibufWrite_ew (a : Nat) (v : Byte) : (s.ibufWrite a v).ew = s.ew := rfl
@[simp] theorem ibufWrite_eActive (a : Nat) (v : Byte) : (s.ibufWrite a v).eActive = s.eActive := rfl
@[simp] theorem ibufWrite_ddict (a : Nat) (v : Byte) : (s.ibufWrite a v).ddict = s.ddict := rfl
@[simp] theorem ibufWrite_dprev (a : Nat) (v : Byte) : (s.ibufWrite a v).dprev = s.dprev := rfl
@[simp] theorem ibufWrite_dActive (a : Nat) (v : Byte) : (s.ibufWrite a v).dActive = s.dActive := rfl
@[simp] theorem ibufWrite_epoch (a : Nat) (v : Byte) : (s.ibufWrite a v).epoch = s.epoch := rfl
@[simp] theorem ibufWrite_inputs (a : Nat) (v : Byte) : (s.ibufWrite a v).inputs = s.inputs := rfl
@[simp] theorem ibufWrite_rsp (a : Nat) (v : Byte) : (s.ibufWrite a v).rsp = s.rsp := rfl
@[simp] theorem ibufWrite_responses (a : Nat) (v : Byte) : (s.ibufWrite a v).responses = s.responses := rfl

/-! `State.cbufWrite` -/

@[simp] theorem cbufWrite_cfg (a : Nat) (v : Code) : (s.cbufWrite a v).cfg = s.cfg := rfl
@[simp] theorem cbufWrite_faulted (a : Nat) (v : Code) : (s.cbufWrite a v).faulted = s.faulted := rfl
@[simp] theorem cbufWrite_errcode (a : Nat) (v : Code) : (s.cbufWrite a v).errcode = s.errcode := rfl
@[simp] theorem cbufWrite_errinfo (a : Nat) (v : Code) : (s.cbufWrite a v).errinfo = s.errinfo := rfl
@[simp] theorem cbufWrite_cmdcnt (a : Nat) (v : Code) : (s.cbufWrite a v).cmdcnt = s.cmdcnt := rfl
@[simp] theorem cbufWrite_ibuf (a : Nat) (v : Code) : (s.cbufWrite a v).ibuf = s.ibuf := rfl
@[simp] theorem cbufWrite_ilen (a : Nat) (v : Code) : (s.cbufWrite a v).ilen = s.ilen := rfl
@[simp] theorem cbufWrite_obuf (a : Nat) (v : Code) : (s.cbufWrite a v).obuf = s.obuf := rfl
@[simp] theorem cbufWrite_bits (a : Nat) (v : Code) : (s.cbufWrite a v).bits = s.bits := rfl
@[simp] theorem cbufWrite_cbuf (a : Nat) (v : Code) : (s.cbufWrite a v).cbuf = Memory.insert s.cbuf a v := rfl
@[simp] theorem cbufWrite_clen (a : Nat) (v : Code) : (s.cbufWrite a v).clen = s.clen := rfl
@[simp] theorem cbufWrite_nleaf (a : Nat) (v : Code) : (s.cbufWrite a v).nleaf = s.nleaf := rfl
@[simp] theorem cbufWrite_nodes (a : Nat) (v : Code) : (s.cbufWrite a v).nodes = s.nodes := rfl
@[simp] theorem cbufWrite_heap (a : Nat) (v : Code) : (s.cbufWrite a v).heap = s.heap := rfl
@[simp] theorem cbufWrite_phase (a : Nat) (v : Code) : (s.cbufWrite a v).phase = s.phase := rfl
@[simp] theorem cbufWrite_root (a : Nat) (v : Code) : (s.cbufWrite a v).root = s.root := rfl
@[simp] theorem cbufWrite_total (a : Nat) (v : Code) : (s.cbufWrite a v).total = s.total := rfl
@[simp] theorem cbufWrite_totbits (a : Nat) (v : Code) : (s.cbufWrite a v).totbits = s.totbits := rfl
@[simp] theorem cbufWrite_fwWidth (a : Nat) (v : Code) : (s.cbufWrite a v).fwWidth = s.fwWidth := rfl
@[simp] theorem cbufWrite_cb (a : Nat) (v : Code) : (s.cbufWrite a v).cb = s.cb := rfl
@[simp] theorem cbufWrite_cbSrc (a : Nat) (v : Code) : (s.cbufWrite a v).cbSrc = s.cbSrc := rfl
@[simp] theorem cbufWrite_lzwCap (a : Nat) (v : Code) : (s.cbufWrite a v).lzwCap = s.lzwCap := rfl
@[simp] theorem cbufWrite_edict (a : Nat) (v : Code) : (s.cbufWrite a v).edict = s.edict := rfl
@[simp] theorem cbufWrite_ew (a : Nat) (v : Code) : (s.cbufWrite a v).ew = s.ew := rfl
@[simp] theorem cbufWrite_eActive (a : Nat) (v : Code) : (s.cbufWrite a v).eActive = s.eActive := rfl
@[simp] theorem cbufWrite_ddict (a : Nat) (v : Code) : (s.cbufWrite a v).ddict = s.ddict := rfl
@[simp] theorem cbufWrite_dprev (a : Nat) (v : Code) : (s.cbufWrite a v).dprev = s.dprev := rfl
@[simp] theorem cbufWrite_dActive (a : Nat) (v : Code) : (s.cbufWrite a v).dActive = s.dActive := rfl
@[simp] theorem cbufWrite_epoch (a : Nat) (v : Code) : (s.cbufWrite a v).epoch = s.epoch := rfl
@[simp] theorem cbufWrite_inputs (a : Nat) (v : Code) : (s.cbufWrite a v).inputs = s.inputs := rfl
@[simp] theorem cbufWrite_rsp (a : Nat) (v : Code) : (s.cbufWrite a v).rsp = s.rsp := rfl
@[simp] theorem cbufWrite_responses (a : Nat) (v : Code) : (s.cbufWrite a v).responses = s.responses := rfl

/-! `State.emitCode` -/

@[simp] theorem emitCode_cfg (e : Code) : (s.emitCode e).cfg = s.cfg := rfl
@[simp] theorem emitCode_faulted (e : Code) : (s.emitCode e).faulted = s.faulted := rfl
@[simp] theorem emitCode_errcode (e : Code) : (s.emitCode e).errcode = s.errcode := rfl
@[simp] theorem emitCode_errinfo (e : Code) : (s.emitCode e).errinfo = s.errinfo := rfl
@[simp] theorem emitCode_cmdcnt (e : Code) : (s.emitCode e).cmdcnt = s.cmdcnt := rfl
@[simp] theorem emitCode_ibuf (e : Code) : (s.emitCode e).ibuf = s.ibuf := rfl
@[simp] theorem emitCode_ilen (e : Code) : (s.emitCode e).ilen = s.ilen := rfl
@[simp] theorem emitCode_obuf (e : Code) : (s.emitCode e).obuf = s.obuf := rfl
@[simp] theorem emitCode_bits (e : Code) : (s.emitCode e).bits = s.bits := rfl
@[simp] theorem emitCode_cbuf (e : Code) : (s.emitCode e).cbuf = Memory.insert s.cbuf s.clen.toNat e := rfl
@[simp] theorem emitCode_clen (e : Code) : (s.emitCode e).clen = s.clen + 1 := rfl
@[simp] theorem emitCode_nleaf (e : Code) : (s.emitCode e).nleaf = s.nleaf := rfl
@[simp] theorem emitCode_nodes (e : Code) : (s.emitCode e).nodes = s.nodes := rfl
@[simp] theorem emitCode_heap (e : Code) : (s.emitCode e).heap = s.heap := rfl
@[simp] theorem emitCode_phase (e : Code) : (s.emitCode e).phase = s.phase := rfl
@[simp] theorem emitCode_root (e : Code) : (s.emitCode e).root = s.root := rfl
@[simp] theorem emitCode_total (e : Code) : (s.emitCode e).total = s.total := rfl
@[simp] theorem emitCode_totbits (e : Code) : (s.emitCode e).totbits = s.totbits := rfl
@[simp] theorem emitCode_fwWidth (e : Code) : (s.emitCode e).fwWidth = s.fwWidth := rfl
@[simp] theorem emitCode_cb (e : Code) : (s.emitCode e).cb = s.cb := rfl
@[simp] theorem emitCode_cbSrc (e : Code) : (s.emitCode e).cbSrc = s.cbSrc := rfl
@[simp] theorem emitCode_lzwCap (e : Code) : (s.emitCode e).lzwCap = s.lzwCap := rfl
@[simp] theorem emitCode_edict (e : Code) : (s.emitCode e).edict = s.edict := rfl
@[simp] theorem emitCode_ew (e : Code) : (s.emitCode e).ew = s.ew := rfl
@[simp] theorem emitCode_eActive (e : Code) : (s.emitCode e).eActive = s.eActive := rfl
@[simp] theorem emitCode_ddict (e : Code) : (s.emitCode e).ddict = s.ddict := rfl
@[simp] theorem emitCode_dprev (e : Code) : (s.emitCode e).dprev = s.dprev := rfl
@[simp] theorem emitCode_dActive (e : Code) : (s.emitCode e).dActive = s.dActive := rfl
@[simp] theorem emitCode_epoch (e : Code) : (s.emitCode e).epoch = s.epoch := rfl
@[simp] theorem emitCode_inputs (e : Code) : (s.emitCode e).inputs = s.inputs := rfl
@[simp] theorem emitCode_rsp (e : Code) : (s.emitCode e).rsp = s.rsp := rfl
@[simp] theorem emitCode_responses (e : Code) : (s.emitCode e).responses = s.responses := rfl

/-! `State.clearTable` -/

@[simp] theorem clearTable_cfg : (s.clearTable).cfg = s.cfg := rfl
@[simp] theorem clearTable_faulted : (s.clearTable).faulted = s.faulted := rfl
@[simp] theorem clearTable_errcode : (s.clearTable).errcode = s.errcode := rfl
@[simp] theorem clearTable_errinfo : (s.clearTable).errinfo = s.errinfo := rfl
@[simp] theorem clearTable_cmdcnt : (s.clearTable).cmdcnt = s.cmdcnt := rfl
@[simp] theorem clearTable_ibuf : (s.clearTable).ibuf = s.ibuf := rfl
@[simp] theorem clearTable_ilen : (s.clearTable).ilen = s.ilen := rfl
@[simp] theorem clearTable_obuf : (s.clearTable).obuf = s.obuf := rfl
@[simp] theorem clearTable_bits : (s.clearTable).bits = s.bits := rfl
@[simp] theorem clearTable_cbuf : (s.clearTable).cbuf = s.cbuf := rfl
@[simp] theorem clearTable_clen : (s.clearTable).clen = s.clen := rfl
@[simp] theorem clearTable_nleaf : (s.clearTable).nleaf = 0 := rfl
@[simp] theorem clearTable_nodes : (s.clearTable).nodes = [] := rfl
@[simp] theorem clearTable_heap : (s.clearTable).heap = [] := rfl
@[simp] theorem clearTable_phase : (s.clearTable).phase = .load := rfl
@[simp] theorem clearTable_root : (s.clearTable).root = nilId := rfl
@[simp] theorem clearTable_total : (s.clearTable).total = 0 := rfl
@[simp] theorem clearTable_totbits : (s.clearTable).totbits = 0 := rfl
@[simp] theorem clearTable_fwWidth : (s.clearTable).fwWidth = 0 := rfl
@[simp] theorem clearTable_cb : (s.clearTable).cb = cbCleared := rfl
@[simp] theorem clearTable_cbSrc : (s.clearTable).cbSrc = .none := rfl
@[simp] theorem clearTable_lzwCap : (s.clearTable).lzwCap = s.lzwCap := rfl
@[simp] theorem clearTable_edict : (s.clearTable).edict = s.edict := rfl
@[simp] theorem clearTable_ew : (s.clearTable).ew = s.ew := rfl
@[simp] theorem clearTable_eActive : (s.clearTable).eActive = s.eActive := rfl
@[simp] theorem clearTable_ddict : (s.clearTable).ddict = s.ddict := rfl
@[simp] theorem clearTable_dprev : (s.clearTable).dprev = s.dprev := rfl
@[simp] theorem clearTable_dActive : (s.clearTable).dActive = s.dActive := rfl
@[simp] theorem clearTable_epoch : (s.clearTable).epoch = s.epoch := rfl
@[simp] theorem clearTable_inputs : (s.clearTable).inputs = s.inputs := rfl
@[simp] theorem clearTable_rsp : (s.clearTable).rsp = s.rsp := rfl
@[simp] theorem clearTable_responses : (s.clearTable).responses = s.responses := rfl

/-! `State.addLeaf` -/

@[simp] theorem addLeaf_cfg (y : Byte) (w : Weight) : (s.addLeaf y w).cfg = s.cfg := rfl
@[simp] theorem addLeaf_faulted (y : Byte) (w : Weight) : (s.addLeaf y w).faulted = s.faulted := rfl
@[simp] theorem addLeaf_errcode (y : Byte) (w : Weight) : (s.addLeaf y w).errcode = s.errcode := rfl
@[simp] theorem addLeaf_errinfo (y : Byte) (w : Weight) : (s.addLeaf y w).errinfo = s.errinfo := rfl
@[simp] theorem addLeaf_cmdcnt (y : Byte) (w : Weight) : (s.addLeaf y w).cmdcnt = s.cmdcnt := rfl
@[simp] theorem addLeaf_ibuf (y : Byte) (w : Weight) : (s.addLeaf y w).ibuf = s.ibuf := rfl
@[simp] theorem addLeaf_ilen (y : Byte) (w : Weight) : (s.addLeaf y w).ilen = s.ilen := rfl
@[simp] theorem addLeaf_obuf (y : Byte) (w : Weight) : (s.addLeaf y w).obuf = s.obuf := rfl
@[simp] theorem addLeaf_bits (y : Byte) (w : Weight) : (s.addLeaf y w).bits = s.bits := rfl
@[simp] theorem addLeaf_cbuf (y : Byte) (w : Weight) : (s.addLeaf y w).cbuf = s.cbuf := rfl
@[simp] theorem addLeaf_clen (y : Byte) (w : Weight) : (s.addLeaf y w).clen = s.clen := rfl
@[simp] theorem addLeaf_nleaf (y : Byte) (w : Weight) : (s.addLeaf y w).nleaf = s.nleaf + 1 := rfl
@[simp] theorem addLeaf_nodes (y : Byte) (w : Weight) : (s.addLeaf y w).nodes = s.nodes ++ [leafNode y w] := rfl
@[simp] theorem addLeaf_heap (y : Byte) (w : Weight) : (s.addLeaf y w).heap = heapPush s.heap { weight := w, id := BitVec.ofNat 16 s.nleaf } := rfl
@[simp] theorem addLeaf_phase (y : Byte) (w : Weight) : (s.addLeaf y w).phase = s.phase := rfl
@[simp] theorem addLeaf_root (y : Byte) (w : Weight) : (s.addLeaf y w).root = s.root := rfl
@[simp] theorem addLeaf_total (y : Byte) (w : Weight) : (s.addLeaf y w).total = s.total := rfl
@[simp] theorem addLeaf_totbits (y : Byte) (w : Weight) : (s.addLeaf y w).totbits = s.totbits := rfl
@[simp] theorem addLeaf_fwWidth (y : Byte) (w : Weight) : (s.addLeaf y w).fwWidth = s.fwWidth := rfl
@[simp] theorem addLeaf_cb (y : Byte) (w : Weight) : (s.addLeaf y w).cb = s.cb := rfl
@[simp] theorem addLeaf_cbSrc (y : Byte) (w : Weight) : (s.addLeaf y w).cbSrc = s.cbSrc := rfl
@[simp] theorem addLeaf_lzwCap (y : Byte) (w : Weight) : (s.addLeaf y w).lzwCap = s.lzwCap := rfl
@[simp] theorem addLeaf_edict (y : Byte) (w : Weight) : (s.addLeaf y w).edict = s.edict := rfl
@[simp] theorem addLeaf_ew (y : Byte) (w : Weight) : (s.addLeaf y w).ew = s.ew := rfl
@[simp] theorem addLeaf_eActive (y : Byte) (w : Weight) : (s.addLeaf y w).eActive = s.eActive := rfl
@[simp] theorem addLeaf_ddict (y : Byte) (w : Weight) : (s.addLeaf y w).ddict = s.ddict := rfl
@[simp] theorem addLeaf_dprev (y : Byte) (w : Weight) : (s.addLeaf y w).dprev = s.dprev := rfl
@[simp] theorem addLeaf_dActive (y : Byte) (w : Weight) : (s.addLeaf y w).dActive = s.dActive := rfl
@[simp] theorem addLeaf_epoch (y : Byte) (w : Weight) : (s.addLeaf y w).epoch = s.epoch := rfl
@[simp] theorem addLeaf_inputs (y : Byte) (w : Weight) : (s.addLeaf y w).inputs = s.inputs := rfl
@[simp] theorem addLeaf_rsp (y : Byte) (w : Weight) : (s.addLeaf y w).rsp = s.rsp := rfl
@[simp] theorem addLeaf_responses (y : Byte) (w : Weight) : (s.addLeaf y w).responses = s.responses := rfl

/-! `State.assignHuffman` -/

@[simp] theorem assignHuffman_cfg : (s.assignHuffman).cfg = s.cfg := rfl
@[simp] theorem assignHuffman_faulted : (s.assignHuffman).faulted = s.faulted := rfl
@[simp] theorem assignHuffman_errcode : (s.assignHuffman).errcode = s.errcode := rfl
@[simp] theorem assignHuffman_errinfo : (s.assignHuffman).errinfo = s.errinfo := rfl
@[simp] theorem assignHuffman_cmdcnt : (s.assignHuffman).cmdcnt = s.cmdcnt := rfl
@[simp] theorem assignHuffman_ibuf : (s.assignHuffman).ibuf = s.ibuf := rfl
@[simp] theorem assignHuffman_ilen : (s.assignHuffman).ilen = s.ilen := rfl
@[simp] theorem assignHuffman_obuf : (s.assignHuffman).obuf = s.obuf := rfl
@[simp] theorem assignHuffman_bits : (s.assignHuffman).bits = s.bits := rfl
@[simp] theorem assignHuffman_cbuf : (s.assignHuffman).cbuf = s.cbuf := rfl
@[simp] theorem assignHuffman_clen : (s.assignHuffman).clen = s.clen := rfl
@[simp] theorem assignHuffman_nleaf : (s.assignHuffman).nleaf = s.nleaf := rfl
@[simp] theorem assignHuffman_nodes : (s.assignHuffman).nodes = s.nodes := rfl
@[simp] theorem assignHuffman_heap : (s.assignHuffman).heap = s.heap := rfl
@[simp] theorem assignHuffman_phase : (s.assignHuffman).phase = .built := rfl
@[simp] theorem assignHuffman_root : (s.assignHuffman).root = s.heapTop := rfl
@[simp] theorem assignHuffman_total : (s.assignHuffman).total = BitVec.ofNat 64 (leafTotal s.leaves) := rfl
@[simp] theorem assignHuffman_totbits : (s.assignHuffman).totbits = BitVec.ofNat 64 (leafTotbits s.leaves (assignCodes s.leaves (leafPath s.nodes s.nleaf s.heapTop))) := rfl
@[simp] theorem assignHuffman_fwWidth : (s.assignHuffman).fwWidth = 0 := rfl
@[simp] theorem assignHuffman_cb : (s.assignHuffman).cb = assignCodes s.leaves (leafPath s.nodes s.nleaf s.heapTop) := rfl
@[simp] theorem assignHuffman_cbSrc : (s.assignHuffman).cbSrc = .huffman := rfl
@[simp] theorem assignHuffman_lzwCap : (s.assignHuffman).lzwCap = s.lzwCap := rfl
@[simp] theorem assignHuffman_edict : (s.assignHuffman).edict = s.edict := rfl
@[simp] theorem assignHuffman_ew : (s.assignHuffman).ew = s.ew := rfl
@[simp] theorem assignHuffman_eActive : (s.assignHuffman).eActive = s.eActive := rfl
@[simp] theorem assignHuffman_ddict : (s.assignHuffman).ddict = s.ddict := rfl
@[simp] theorem assignHuffman_dprev : (s.assignHuffman).dprev = s.dprev := rfl
@[simp] theorem assignHuffman_dActive : (s.assignHuffman).dActive = s.dActive := rfl
@[simp] theorem assignHuffman_epoch : (s.assignHuffman).epoch = s.epoch := rfl
@[simp] theorem assignHuffman_inputs : (s.assignHuffman).inputs = s.inputs := rfl
@[simp] theorem assignHuffman_rsp : (s.assignHuffman).rsp = s.rsp := rfl
@[simp] theorem assignHuffman_responses : (s.assignHuffman).responses = s.responses := rfl

/-! `State.assignFixed` -/

@[simp] theorem assignFixed_cfg : (s.assignFixed).cfg = s.cfg := rfl
@[simp] theorem assignFixed_faulted : (s.assignFixed).faulted = s.faulted := rfl
@[simp] theorem assignFixed_errcode : (s.assignFixed).errcode = s.errcode := rfl
@[simp] theorem assignFixed_errinfo : (s.assignFixed).errinfo = s.errinfo := rfl
@[simp] theorem assignFixed_cmdcnt : (s.assignFixed).cmdcnt = s.cmdcnt := rfl
@[simp] theorem assignFixed_ibuf : (s.assignFixed).ibuf = s.ibuf := rfl
@[simp] theorem assignFixed_ilen : (s.assignFixed).ilen = s.ilen := rfl
@[simp] theorem assignFixed_obuf : (s.assignFixed).obuf = s.obuf := rfl
@[simp] theorem assignFixed_bits : (s.assignFixed).bits = s.bits := rfl
@[simp] theorem assignFixed_cbuf : (s.assignFixed).cbuf = s.cbuf := rfl
@[simp] theorem assignFixed_clen : (s.assignFixed).clen = s.clen := rfl
@[simp] theorem assignFixed_nleaf : (s.assignFixed).nleaf = s.nleaf := rfl
@[simp] theorem assignFixed_nodes : (s.assignFixed).nodes = s.nodes := rfl
@[simp] theorem assignFixed_heap : (s.assignFixed).heap = s.heap := rfl
@[simp] theorem assignFixed_phase : (s.assignFixed).phase = .built := rfl
@[simp] theorem assignFixed_root : (s.assignFixed).root = s.root := rfl
@[simp] theorem assignFixed_total : (s.assignFixed).total = BitVec.ofNat 64 (leafTotal s.leaves) := rfl
@[simp] theorem assignFixed_totbits : (s.assignFixed).totbits = BitVec.ofNat 64 (leafTotal s.leaves * codeWidth s.nleaf) := rfl
@[simp] theorem assignFixed_fwWidth : (s.assignFixed).fwWidth = BitVec.ofNat 4 (codeWidth s.nleaf) := rfl
@[simp] theorem assignFixed_cb : (s.assignFixed).cb = assignCodes s.leaves (bitsOf (codeWidth s.nleaf)) := rfl
@[simp] theorem assignFixed_cbSrc : (s.assignFixed).cbSrc = .fixed := rfl
@[simp] theorem assignFixed_lzwCap : (s.assignFixed).lzwCap = s.lzwCap := rfl
@[simp] theorem assignFixed_edict : (s.assignFixed).edict = s.edict := rfl
@[simp] theorem assignFixed_ew : (s.assignFixed).ew = s.ew := rfl
@[simp] theorem assignFixed_eActive : (s.assignFixed).eActive = s.eActive := rfl
@[simp] theorem assignFixed_ddict : (s.assignFixed).ddict = s.ddict := rfl
@[simp] theorem assignFixed_dprev : (s.assignFixed).dprev = s.dprev := rfl
@[simp] theorem assignFixed_dActive : (s.assignFixed).dActive = s.dActive := rfl
@[simp] theorem assignFixed_epoch : (s.assignFixed).epoch = s.epoch := rfl
@[simp] theorem assignFixed_inputs : (s.assignFixed).inputs = s.inputs := rfl
@[simp] theorem assignFixed_rsp : (s.assignFixed).rsp = s.rsp := rfl
@[simp] theorem assignFixed_responses : (s.assignFixed).responses = s.responses := rfl

/-! `State.encoderInit` -/

@[simp] theorem encoderInit_cfg : (s.encoderInit).cfg = s.cfg := rfl
@[simp] theorem encoderInit_faulted : (s.encoderInit).faulted = s.faulted := rfl
@[simp] theorem encoderInit_errcode : (s.encoderInit).errcode = s.errcode := rfl
@[simp] theorem encoderInit_errinfo : (s.encoderInit).errinfo = s.errinfo := rfl
@[simp] theorem encoderInit_cmdcnt : (s.encoderInit).cmdcnt = s.cmdcnt := rfl
@[simp] theorem encoderInit_ibuf : (s.encoderInit).ibuf = s.ibuf := rfl
@[simp] theorem encoderInit_ilen : (s.encoderInit).ilen = s.ilen := rfl
@[simp] theorem encoderInit_obuf : (s.encoderInit).obuf = s.obuf := rfl
@[simp] theorem encoderInit_bits : (s.encoderInit).bits = s.bits := rfl
@[simp] theorem encoderInit_cbuf : (s.encoderInit).cbuf = s.cbuf := rfl
@[simp] theorem encoderInit_clen : (s.encoderInit).clen = 0 := rfl
@[simp] theorem encoderInit_nleaf : (s.encoderInit).nleaf = s.nleaf := rfl
@[simp] theorem encoderInit_nodes : (s.encoderInit).nodes = s.nodes := rfl
@[simp] theorem encoderInit_heap : (s.encoderInit).heap = s.heap := rfl
@[simp] theorem encoderInit_phase : (s.encoderInit).phase = s.phase := rfl
@[simp] theorem encoderInit_root : (s.encoderInit).root = s.root := rfl
@[simp] theorem encoderInit_total : (s.encoderInit).total = s.total := rfl
@[simp] theorem encoderInit_totbits : (s.encoderInit).totbits = s.totbits := rfl
@[simp] theorem encoderInit_fwWidth : (s.encoderInit).fwWidth = s.fwWidth := rfl
@[simp] theorem encoderInit_cb : (s.encoderInit).cb = s.cb := rfl
@[simp] theorem encoderInit_cbSrc : (s.encoderInit).cbSrc = s.cbSrc := rfl
@[simp] theorem encoderInit_lzwCap : (s.encoderInit).lzwCap = s.lzwCap := rfl
@[simp] theorem encoderInit_edict : (s.encoderInit).edict = [] := rfl
@[simp] theorem encoderInit_ew : (s.encoderInit).ew = none := rfl
@[simp] theorem encoderInit_eActive : (s.encoderInit).eActive = true := rfl
@[simp] theorem encoderInit_ddict : (s.encoderInit).ddict = s.ddict := rfl
@[simp] theorem encoderInit_dprev : (s.encoderInit).dprev = s.dprev := rfl
@[simp] theorem encoderInit_dActive : (s.encoderInit).dActive = s.dActive := rfl
@[simp] theorem encoderInit_epoch : (s.encoderInit).epoch = s.epoch := rfl
@[simp] theorem encoderInit_inputs : (s.encoderInit).inputs = s.inputs := rfl
@[simp] theorem encoderInit_rsp : (s.encoderInit).rsp = s.rsp := rfl
@[simp] theorem encoderInit_responses : (s.encoderInit).responses = s.responses := rfl

/-! `State.decoderInit` -/

@[simp] theorem decoderInit_cfg : (s.decoderInit).cfg = s.cfg := rfl
@[simp] theorem decoderInit_faulted : (s.decoderInit).faulted = s.faulted := rfl
@[simp] theorem decoderInit_errcode : (s.decoderInit).errcode = s.errcode := rfl
@[simp] theorem decoderInit_errinfo : (s.decoderInit).errinfo = s.errinfo := rfl
@[simp] theorem decoderInit_cmdcnt : (s.decoderInit).cmdcnt = s.cmdcnt := rfl
@[simp] theorem decoderInit_ibuf : (s.decoderInit).ibuf = s.ibuf := rfl
@[simp] theorem decoderInit_ilen : (s.decoderInit).ilen = s.ilen := rfl
@[simp] theorem decoderInit_obuf : (s.decoderInit).obuf = [] := rfl
@[simp] theorem decoderInit_bits : (s.decoderInit).bits = s.bits := rfl
@[simp] theorem decoderInit_cbuf : (s.decoderInit).cbuf = s.cbuf := rfl
@[simp] theorem decoderInit_clen : (s.decoderInit).clen = s.clen := rfl
@[simp] theorem decoderInit_nleaf : (s.decoderInit).nleaf = s.nleaf := rfl
@[simp] theorem decoderInit_nodes : (s.decoderInit).nodes = s.nodes := rfl
@[simp] theorem decoderInit_heap : (s.decoderInit).heap = s.heap := rfl
@[simp] theorem decoderInit_phase : (s.decoderInit).phase = s.phase := rfl
@[simp] theorem decoderInit_root : (s.decoderInit).root = s.root := rfl
@[simp] theorem decoderInit_total : (s.decoderInit).total = s.total := rfl
@[simp] theorem decoderInit_totbits : (s.decoderInit).totbits = s.totbits := rfl
@[simp] theorem decoderInit_fwWidth : (s.decoderInit).fwWidth = s.fwWidth := rfl
@[simp] theorem decoderInit_cb : (s.decoderInit).cb = s.cb := rfl
@[simp] theorem decoderInit_cbSrc : (s.decoderInit).cbSrc = s.cbSrc := rfl
@[simp] theorem decoderInit_lzwCap : (s.decoderInit).lzwCap = s.lzwCap := rfl
@[simp] theorem decoderInit_edict : (s.decoderInit).edict = s.edict := rfl
@[simp] theorem decoderInit_ew : (s.decoderInit).ew = s.ew := rfl
@[simp] theorem decoderInit_eActive : (s.decoderInit).eActive = s.eActive := rfl
@[simp] theorem decoderInit_ddict : (s.decoderInit).ddict = [] := rfl
@[simp] theorem decoderInit_dprev : (s.decoderInit).dprev = none := rfl
@[simp] theorem decoderInit_dActive : (s.decoderInit).dActive = true := rfl
@[simp] theorem decoderInit_epoch : (s.decoderInit).epoch = s.epoch := rfl
@[simp] theorem decoderInit_inputs : (s.decoderInit).inputs = s.inputs := rfl
@[simp] theorem decoderInit_rsp : (s.decoderInit).rsp = s.rsp := rfl
@[simp] theorem decoderInit_responses : (s.decoderInit).responses = s.responses := rfl

/-! `State.afterReset` -/

@[simp] theorem afterReset_cfg : (s.afterReset).cfg = s.cfg := rfl
@[simp] theorem afterReset_faulted : (s.afterReset).faulted = State.reset.faulted := rfl
@[simp] theorem afterReset_errcode : (s.afterReset).errcode = State.reset.errcode := rfl
@[simp] theorem afterReset_errinfo : (s.afterReset).errinfo = State.reset.errinfo := rfl
@[simp] theorem afterReset_cmdcnt : (s.afterReset).cmdcnt = State.reset.cmdcnt := rfl
@[simp] theorem afterReset_ibuf : (s.afterReset).ibuf = State.reset.ibuf := rfl
@[simp] theorem afterReset_ilen : (s.afterReset).ilen = State.reset.ilen := rfl
@[simp] theorem afterReset_obuf : (s.afterReset).obuf = State.reset.obuf := rfl
@[simp] theorem afterReset_bits : (s.afterReset).bits = State.reset.bits := rfl
@[simp] theorem afterReset_cbuf : (s.afterReset).cbuf = State.reset.cbuf := rfl
@[simp] theorem afterReset_clen : (s.afterReset).clen = State.reset.clen := rfl
@[simp] theorem afterReset_nleaf : (s.afterReset).nleaf = State.reset.nleaf := rfl
@[simp] theorem afterReset_nodes : (s.afterReset).nodes = State.reset.nodes := rfl
@[simp] theorem afterReset_heap : (s.afterReset).heap = State.reset.heap := rfl
@[simp] theorem afterReset_phase : (s.afterReset).phase = State.reset.phase := rfl
@[simp] theorem afterReset_root : (s.afterReset).root = State.reset.root := rfl
@[simp] theorem afterReset_total : (s.afterReset).total = State.reset.total := rfl
@[simp] theorem afterReset_totbits : (s.afterReset).totbits = State.reset.totbits := rfl
@[simp] theorem afterReset_fwWidth : (s.afterReset).fwWidth = State.reset.fwWidth := rfl
@[simp] theorem afterReset_cb : (s.afterReset).cb = State.reset.cb := rfl
@[simp] theorem afterReset_cbSrc : (s.afterReset).cbSrc = State.reset.cbSrc := rfl
@[simp] theorem afterReset_lzwCap : (s.afterReset).lzwCap = State.reset.lzwCap := rfl
@[simp] theorem afterReset_edict : (s.afterReset).edict = State.reset.edict := rfl
@[simp] theorem afterReset_ew : (s.afterReset).ew = State.reset.ew := rfl
@[simp] theorem afterReset_eActive : (s.afterReset).eActive = State.reset.eActive := rfl
@[simp] theorem afterReset_ddict : (s.afterReset).ddict = State.reset.ddict := rfl
@[simp] theorem afterReset_dprev : (s.afterReset).dprev = State.reset.dprev := rfl
@[simp] theorem afterReset_dActive : (s.afterReset).dActive = State.reset.dActive := rfl
@[simp] theorem afterReset_epoch : (s.afterReset).epoch = s.epoch + 1 := rfl
@[simp] theorem afterReset_inputs : (s.afterReset).inputs = s.inputs := rfl
@[simp] theorem afterReset_rsp : (s.afterReset).rsp = State.reset.rsp := rfl
@[simp] theorem afterReset_responses : (s.afterReset).responses = s.responses := rfl

/-! `State.recordReject` -/

@[simp] theorem recordReject_cfg (c : RejectCode) : (s.recordReject c).cfg = s.cfg := by
  unfold State.recordReject; split <;> rfl
@[simp] theorem recordReject_faulted (c : RejectCode) : (s.recordReject c).faulted = s.faulted := by
  unfold State.recordReject; split <;> rfl
@[simp] theorem recordReject_errcode (c : RejectCode) :
    (s.recordReject c).errcode = if s.faulted then s.errcode else c.byte := by
  unfold State.recordReject; split <;> rfl
@[simp] theorem recordReject_errinfo (c : RejectCode) :
    (s.recordReject c).errinfo = if s.faulted then s.errinfo else 0 := by
  unfold State.recordReject; split <;> rfl
@[simp] theorem recordReject_cmdcnt (c : RejectCode) : (s.recordReject c).cmdcnt = s.cmdcnt := by
  unfold State.recordReject; split <;> rfl
@[simp] theorem recordReject_ibuf (c : RejectCode) : (s.recordReject c).ibuf = s.ibuf := by
  unfold State.recordReject; split <;> rfl
@[simp] theorem recordReject_ilen (c : RejectCode) : (s.recordReject c).ilen = s.ilen := by
  unfold State.recordReject; split <;> rfl
@[simp] theorem recordReject_obuf (c : RejectCode) : (s.recordReject c).obuf = s.obuf := by
  unfold State.recordReject; split <;> rfl
@[simp] theorem recordReject_bits (c : RejectCode) : (s.recordReject c).bits = s.bits := by
  unfold State.recordReject; split <;> rfl
@[simp] theorem recordReject_cbuf (c : RejectCode) : (s.recordReject c).cbuf = s.cbuf := by
  unfold State.recordReject; split <;> rfl
@[simp] theorem recordReject_clen (c : RejectCode) : (s.recordReject c).clen = s.clen := by
  unfold State.recordReject; split <;> rfl
@[simp] theorem recordReject_nleaf (c : RejectCode) : (s.recordReject c).nleaf = s.nleaf := by
  unfold State.recordReject; split <;> rfl
@[simp] theorem recordReject_nodes (c : RejectCode) : (s.recordReject c).nodes = s.nodes := by
  unfold State.recordReject; split <;> rfl
@[simp] theorem recordReject_heap (c : RejectCode) : (s.recordReject c).heap = s.heap := by
  unfold State.recordReject; split <;> rfl
@[simp] theorem recordReject_phase (c : RejectCode) : (s.recordReject c).phase = s.phase := by
  unfold State.recordReject; split <;> rfl
@[simp] theorem recordReject_root (c : RejectCode) : (s.recordReject c).root = s.root := by
  unfold State.recordReject; split <;> rfl
@[simp] theorem recordReject_total (c : RejectCode) : (s.recordReject c).total = s.total := by
  unfold State.recordReject; split <;> rfl
@[simp] theorem recordReject_totbits (c : RejectCode) : (s.recordReject c).totbits = s.totbits := by
  unfold State.recordReject; split <;> rfl
@[simp] theorem recordReject_fwWidth (c : RejectCode) : (s.recordReject c).fwWidth = s.fwWidth := by
  unfold State.recordReject; split <;> rfl
@[simp] theorem recordReject_cb (c : RejectCode) : (s.recordReject c).cb = s.cb := by
  unfold State.recordReject; split <;> rfl
@[simp] theorem recordReject_cbSrc (c : RejectCode) : (s.recordReject c).cbSrc = s.cbSrc := by
  unfold State.recordReject; split <;> rfl
@[simp] theorem recordReject_lzwCap (c : RejectCode) : (s.recordReject c).lzwCap = s.lzwCap := by
  unfold State.recordReject; split <;> rfl
@[simp] theorem recordReject_edict (c : RejectCode) : (s.recordReject c).edict = s.edict := by
  unfold State.recordReject; split <;> rfl
@[simp] theorem recordReject_ew (c : RejectCode) : (s.recordReject c).ew = s.ew := by
  unfold State.recordReject; split <;> rfl
@[simp] theorem recordReject_eActive (c : RejectCode) : (s.recordReject c).eActive = s.eActive := by
  unfold State.recordReject; split <;> rfl
@[simp] theorem recordReject_ddict (c : RejectCode) : (s.recordReject c).ddict = s.ddict := by
  unfold State.recordReject; split <;> rfl
@[simp] theorem recordReject_dprev (c : RejectCode) : (s.recordReject c).dprev = s.dprev := by
  unfold State.recordReject; split <;> rfl
@[simp] theorem recordReject_dActive (c : RejectCode) : (s.recordReject c).dActive = s.dActive := by
  unfold State.recordReject; split <;> rfl
@[simp] theorem recordReject_epoch (c : RejectCode) : (s.recordReject c).epoch = s.epoch := by
  unfold State.recordReject; split <;> rfl
@[simp] theorem recordReject_inputs (c : RejectCode) : (s.recordReject c).inputs = s.inputs := by
  unfold State.recordReject; split <;> rfl
@[simp] theorem recordReject_rsp (c : RejectCode) : (s.recordReject c).rsp = s.rsp := by
  unfold State.recordReject; split <;> rfl
@[simp] theorem recordReject_responses (c : RejectCode) : (s.recordReject c).responses = s.responses := by
  unfold State.recordReject; split <;> rfl

end Sys2Proof.Machine
end

