-- ==== Sys2Proof/Laws/Builder.lean ====
section
/-! SUPPORT. What one merge and one more leaf do to the tree builder. -/

namespace Sys2Proof.Machine

/-- One merge with at least two keys: the two popped keys, the new node and the heap after the push. -/
theorem mergeOnce_two {s : State} (h : 2 ≤ s.heap.length) :
    ∃ x y h1 h2, heapPop s.heap = some (x, h1) ∧ heapPop h1 = some (y, h2) ∧
      s.mergeOnce = { s with nodes := s.nodes ++ [joinNode x y],
                             heap := heapPush h2 { weight := x.weight + y.weight,
                                                   id := BitVec.ofNat 16 s.nodes.length },
                             phase := .merge } := by
  cases e1 : heapPop s.heap with
  | none =>
    have h1 := heapPop_isSome s.heap
    cases hl : s.heap <;> simp_all
  | some p =>
    obtain ⟨x, h1⟩ := p
    have hl := heapPop_length e1
    cases e2 : heapPop h1 with
    | none =>
      have h2 := heapPop_isSome h1
      cases hl' : h1 <;> simp_all
    | some q =>
      obtain ⟨y, h2⟩ := q
      exact ⟨x, y, h1, h2, rfl, e2, by simp [State.mergeOnce, e1, e2]⟩

/-- One merge takes one key out of the heap. -/
theorem mergeOnce_heap_length {s : State} (h : 2 ≤ s.heap.length) :
    s.mergeOnce.heap.length + 1 = s.heap.length := by
  obtain ⟨x, y, h1, h2, e1, e2, e⟩ := mergeOnce_two h
  have := heapPop_length e1
  have := heapPop_length e2
  rw [e]
  simp only [heapPush_length]
  omega

/-- One merge adds one node to the arena. -/
theorem mergeOnce_nodes_length {s : State} (h : 2 ≤ s.heap.length) :
    s.mergeOnce.nodes.length = s.nodes.length + 1 := by
  obtain ⟨x, y, h1, h2, e1, e2, e⟩ := mergeOnce_two h
  simp [e]

/-- The fields a merge never touches. -/
theorem mergeOnce_frame (s : State) :
    s.mergeOnce = { s with nodes := s.mergeOnce.nodes, heap := s.mergeOnce.heap, phase := s.mergeOnce.phase } := by
  unfold State.mergeOnce
  split
  · rfl
  · split <;> rfl

/-- The fields one byte of the encoder never touches. -/
theorem encodeByte_frame (s : State) (c : Byte) :
    s.encodeByte c = { s with cbuf := (s.encodeByte c).cbuf, clen := (s.encodeByte c).clen,
                              edict := (s.encodeByte c).edict, ew := (s.encodeByte c).ew } := by
  unfold State.encodeByte
  split
  · rfl
  · split <;> rfl

/-- The fields the end of an encoder session never touches. -/
theorem encoderFlush_frame (s : State) :
    s.encoderFlush = { s with cbuf := s.encoderFlush.cbuf, clen := s.encoderFlush.clen,
                              ew := none, eActive := false } := by
  unfold State.encoderFlush
  split
  · rename_i h
    cases s
    simp_all
  · rfl

end Sys2Proof.Machine
end

