-- ==== Sys2Proof/Laws/Dict.lean ====
section
/-! SUPPORT. What the dictionary operations answer. -/

namespace Sys2Proof.Machine

/-- A growing dictionary takes the entry. -/
theorem dictAdd_below {cap : Word32} {d : List DictEntry} (e : DictEntry) (h : 256 + d.length < cap.toNat) :
    dictAdd cap d e = d ++ [e] := by
  simp [dictAdd, h]

/-- A frozen dictionary stays as it is. -/
theorem dictAdd_frozen {cap : Word32} {d : List DictEntry} (e : DictEntry) (h : cap.toNat ≤ 256 + d.length) :
    dictAdd cap d e = d := by
  simp [dictAdd, Nat.not_lt.2 h]

/-- A lookup that finds a code finds the entry stored under it. -/
theorem dictFind_some {d : List DictEntry} {w k : Code} {c : Byte} (h : dictFind d w c = some k) :
    ∃ i, d[i]? = some { prefixCode := w, byte := c } ∧ k = BitVec.ofNat 16 (256 + i) := by
  unfold dictFind at h
  obtain ⟨i, hi, rfl⟩ := Option.map_eq_some_iff.1 h
  obtain ⟨hlt, hp, -⟩ := List.findIdx?_eq_some_iff_getElem.1 hi
  refine ⟨i, ?_, rfl⟩
  simp only [Bool.and_eq_true, beq_iff_eq] at hp
  rw [List.getElem?_eq_getElem hlt]
  obtain ⟨h1, h2⟩ := hp
  rw [← h1, ← h2]

/-- A lookup finds nothing exactly when no stored entry is the pair. -/
theorem dictFind_none {d : List DictEntry} {w : Code} {c : Byte} :
    dictFind d w c = none ↔ { prefixCode := w, byte := c } ∉ d := by
  unfold dictFind
  rw [Option.map_eq_none_iff, List.findIdx?_eq_none_iff]
  constructor
  · intro h hm
    simpa using h _ hm
  · intro h e he
    by_contra hc
    simp only [Bool.not_eq_false, Bool.and_eq_true, beq_iff_eq] at hc
    obtain ⟨rfl, rfl⟩ := hc
    exact h he

/-- The string of a code below 256 is the byte itself. -/
theorem codeString_byte (d : List DictEntry) {k : Code} (h : k.toNat < 256) : codeString d k = [k.setWidth 8] := by
  simp [codeString, dictString, h]

end Sys2Proof.Machine
end

