-- ==== Sys2Proof/Laws/Memory.lean ====
section
/-! SUPPORT. What the buffer cell operations do: a read after a write, and the canonical form of the written
cells. -/

namespace Sys2Proof.Machine

variable {α : Type}

/-- A cell that was just written holds the value written. -/
@[simp] theorem lookup_insert_same (m : List (Nat × α)) (a : Nat) (v : α) :
    Memory.lookup (Memory.insert m a v) a = some v := by
  induction m with
  | nil => simp [Memory.insert, Memory.lookup]
  | cons c m ih =>
    obtain ⟨b, w⟩ := c
    simp only [Memory.insert]
    split
    · simp [Memory.lookup]
    · split
      · simp [Memory.lookup]
      · rename_i h
        simp [Memory.lookup, Ne.symm h, ih]

/-- A write leaves every other cell alone. -/
theorem lookup_insert_other (m : List (Nat × α)) {a b : Nat} (v : α) (h : b ≠ a) :
    Memory.lookup (Memory.insert m a v) b = Memory.lookup m b := by
  induction m with
  | nil => simp [Memory.insert, Memory.lookup, Ne.symm h]
  | cons c m ih =>
    obtain ⟨e, w⟩ := c
    simp only [Memory.insert]
    split
    · simp [Memory.lookup, Ne.symm h]
    · split
      · rename_i h'
        subst h'
        simp [Memory.lookup, Ne.symm h]
      · simp [Memory.lookup, ih]

/-- The addresses listed after a write are the written one and the ones listed before. -/
theorem mem_insert_address {m : List (Nat × α)} {a : Nat} {v : α} {c : Nat × α} (h : c ∈ Memory.insert m a v) :
    c = (a, v) ∨ c ∈ m := by
  induction m with
  | nil => simpa [Memory.insert] using h
  | cons e m ih =>
    obtain ⟨b, w⟩ := e
    simp only [Memory.insert] at h
    split at h
    · simpa using h
    · split at h
      · rcases List.mem_cons.1 h with rfl | h
        · exact .inl rfl
        · exact .inr (List.mem_cons_of_mem _ h)
      · rcases List.mem_cons.1 h with rfl | h
        · exact .inr (List.mem_cons_self ..)
        · exact (ih h).imp id (List.mem_cons_of_mem _)

/-- A write keeps the canonical form. -/
theorem insert_wf {m : List (Nat × α)} (a : Nat) (v : α) (h : Memory.wf m) : Memory.wf (Memory.insert m a v) := by
  induction m with
  | nil => simp [Memory.insert, Memory.wf]
  | cons e m ih =>
    obtain ⟨b, w⟩ := e
    obtain ⟨hb, hm⟩ := List.pairwise_cons.1 h
    simp only [Memory.insert]
    split
    · rename_i hab
      refine List.pairwise_cons.2 ⟨fun c hc => ?_, h⟩
      rcases List.mem_cons.1 hc with rfl | hc
      · exact hab
      · exact hab.trans (hb c hc)
    · split
      · rename_i hab
        subst hab
        exact List.pairwise_cons.2 ⟨hb, hm⟩
      · refine List.pairwise_cons.2 ⟨fun c hc => ?_, ih hm⟩
        rcases mem_insert_address hc with rfl | hc
        · show b < a
          omega
        · exact hb c hc

/-- The reset memories are in canonical form. -/
theorem reset_memory_wf : Memory.wf State.reset.ibuf ∧ Memory.wf State.reset.cbuf := by
  simp [State.reset, Memory.wf]

/-- `IBUF[b]` after a write of `IBUF[a]`. -/
theorem ibufRead_ibufWrite (s : State) (a b : Nat) (v : Byte) :
    (s.ibufWrite a v).ibufRead b = if b = a then v else s.ibufRead b := by
  split
  · subst_vars
    simp [State.ibufRead, State.ibufWrite]
  · rename_i h
    simp [State.ibufRead, State.ibufWrite, lookup_insert_other _ _ h]

/-- `CBUF[b]` after a write of `CBUF[a]`. -/
theorem cbufRead_cbufWrite (s : State) (a b : Nat) (v : Code) :
    (s.cbufWrite a v).cbufRead b = if b = a then v else s.cbufRead b := by
  split
  · subst_vars
    simp [State.cbufRead, State.cbufWrite]
  · rename_i h
    simp [State.cbufRead, State.cbufWrite, lookup_insert_other _ _ h]

@[simp] theorem inputBytes_length (s : State) : s.inputBytes.length = s.ilen.toNat := by
  simp [State.inputBytes]

@[simp] theorem inputCodes_length (s : State) : s.inputCodes.length = s.clen.toNat := by
  simp [State.inputCodes]

end Sys2Proof.Machine
end

