-- ==== Sys2Proof/Laws/Outcome.lean ====
section
/-! SUPPORT. How a command ends: the outcome operations, and that every command and every step answers a next
state. -/

namespace Sys2Proof.Machine

@[simp] theorem finish_success (s t : State) (d : Word32) : finish s (.success t d) = t.answer 0 d := rfl

@[simp] theorem finish_reject (s : State) (c : RejectCode) :
    finish s (.reject c) = (s.recordReject c).answer c.byte 0 := rfl

@[simp] theorem finish_fault (s t : State) (c : FaultCode) (info : Word32) :
    finish s (.fault t c info) = (t.takeFault c info).answer c.byte info := rfl

theorem runGated_unfaulted {rule : State → CmdResult} {s : State} (h : s.faulted = false) :
    runGated rule s = .next (finish s (rule s)) := by
  simp [runGated, h]

theorem runGated_faulted {rule : State → CmdResult} {s : State} (h : s.faulted = true) :
    runGated rule s = .next ((s.recordReject .faulted).answer RejectCode.faulted.byte 0) := by
  simp [runGated, h]

theorem recordReject_of_faulted {s : State} (c : RejectCode) (h : s.faulted = true) : s.recordReject c = s := by
  simp [State.recordReject, h]

theorem recordReject_of_unfaulted {s : State} (c : RejectCode) (h : s.faulted = false) :
    s.recordReject c = { s with errcode := c.byte, errinfo := 0 } := by
  simp [State.recordReject, h]

/-- Every command answers a next state. -/
theorem exec_next (i : Instr) (s : State) : ∃ t, exec i s = .next t := by
  cases i <;> exact ⟨_, rfl⟩

/-- Every step answers a next state. -/
theorem step_next (s : State) : ∃ t, step s = .next t := by
  unfold step
  split
  · exact ⟨_, rfl⟩
  · exact ⟨_, rfl⟩
  · exact ⟨_, rfl⟩
  · split
    · exact exec_next _ _
    · exact ⟨_, rfl⟩

/-- The three shapes `appendBits` can end in. -/
theorem appendBits_cases (add : List Bool) (s : State) :
    (s.cfg.bitcap < s.bitlen + add.length ∧ appendBits add s = .reject .capacity) ∨
    (s.bitlen + add.length ≤ s.cfg.bitcap ∧
      appendBits add s = .success { s with bits := s.bits ++ add } (word32 (s.bits ++ add).length)) := by
  unfold appendBits
  split
  · exact .inl ⟨‹_›, rfl⟩
  · exact .inr ⟨by omega, rfl⟩

/-- The two shapes `emitEntry` can end in. -/
theorem emitEntry_cases (s : State) (entry : List Byte) (d : List DictEntry) (k : Code) :
    (s.cfg.obufBytes < s.olen + entry.length ∧ emitEntry s entry d k = .reject .capacity) ∨
    (s.olen + entry.length ≤ s.cfg.obufBytes ∧
      emitEntry s entry d k =
        .success { s with obuf := s.obuf ++ entry, ddict := d, dprev := some k } (word32 entry.length)) := by
  unfold emitEntry
  split
  · exact .inl ⟨‹_›, rfl⟩
  · exact .inr ⟨by omega, rfl⟩

end Sys2Proof.Machine
end

