-- ==== Sys2Proof/Laws/PerInstr.lean ====
section
/-! SUPPORT. The family `OpField`, one lemma per command: the OP field of its word is the opcode of its row. -/

namespace Sys2Proof.Laws.OpField

/-- The opcode of each command (`30_encoding.md` R106). -/
def opcode : Instr → BitVec 8
  | .nop => 0x00
  | .reset => 0x01
  | .rd _ _ => 0x02
  | .wr _ _ _ => 0x03
  | .bssClr => 0x10
  | .bssAppend _ _ => 0x11
  | .bssAppsym _ => 0x12
  | .bssEnc => 0x13
  | .bssDec => 0x14
  | .bssPack _ => 0x15
  | .bssUnpack _ _ => 0x16
  | .htbClr => 0x20
  | .htbLoad _ _ => 0x21
  | .htbCount _ => 0x22
  | .htbStep => 0x23
  | .htbAssign => 0x24
  | .htbBuild => 0x25
  | .lzwEinit => 0x30
  | .lzwEbyte _ => 0x31
  | .lzwEflush => 0x32
  | .lzwEnc => 0x33
  | .lzwDinit => 0x34
  | .lzwDcode _ => 0x35
  | .lzwDec => 0x36
  | .fwAssign => 0x40
  | .fwEnc => 0x41
  | .fwDec => 0x42

/-- The encoder puts the command's opcode into bits 63:56 (`30_encoding.md` R101, R106). -/
def Statement (i : Instr) : Prop := opField (encode i) = opcode i

/-- The OP field of a word put together from its fields. -/
theorem opField_wordOf (op : BitVec 8) (a : BitVec 24) (b : Word32) : opField (wordOf op a b) = op := by
  ext j hj
  simp only [opField, wordOf, BitVec.getElem_extractLsb', BitVec.getLsbD_append]
  have h1 : ¬ 56 + j < 32 := by omega
  have h2 : ¬ 56 + j - 32 < 24 := by omega
  have h3 : 56 + j - 32 - 24 = j := by omega
  simp [h1, h2, h3, hj]

theorem nop : Statement .nop := opField_wordOf _ _ _

theorem reset : Statement .reset := opField_wordOf _ _ _

theorem rd (space : BitVec 4) (addr : BitVec 20) : Statement (.rd space addr) := opField_wordOf _ _ _

theorem wr (space : BitVec 4) (addr : BitVec 20) (data : Word32) : Statement (.wr space addr data) := opField_wordOf _ _ _

theorem bssClr : Statement .bssClr := opField_wordOf _ _ _

theorem bssAppend (n : BitVec 6) (bits : Word32) : Statement (.bssAppend n bits) := opField_wordOf _ _ _

theorem bssAppsym (sym : Byte) : Statement (.bssAppsym sym) := opField_wordOf _ _ _

theorem bssEnc : Statement .bssEnc := opField_wordOf _ _ _

theorem bssDec : Statement .bssDec := opField_wordOf _ _ _

theorem bssPack (hdr : Bool) : Statement (.bssPack hdr) := opField_wordOf _ _ _

theorem bssUnpack (hdr : Bool) (nbits : Word32) : Statement (.bssUnpack hdr nbits) := opField_wordOf _ _ _

theorem htbClr : Statement .htbClr := opField_wordOf _ _ _

theorem htbLoad (sym : Byte) (weight : Word32) : Statement (.htbLoad sym weight) := opField_wordOf _ _ _

theorem htbCount (order : Bool) : Statement (.htbCount order) := opField_wordOf _ _ _

theorem htbStep : Statement .htbStep := opField_wordOf _ _ _

theorem htbAssign : Statement .htbAssign := opField_wordOf _ _ _

theorem htbBuild : Statement .htbBuild := opField_wordOf _ _ _

theorem lzwEinit : Statement .lzwEinit := opField_wordOf _ _ _

theorem lzwEbyte (c : Byte) : Statement (.lzwEbyte c) := opField_wordOf _ _ _

theorem lzwEflush : Statement .lzwEflush := opField_wordOf _ _ _

theorem lzwEnc : Statement .lzwEnc := opField_wordOf _ _ _

theorem lzwDinit : Statement .lzwDinit := opField_wordOf _ _ _

theorem lzwDcode (k : Code) : Statement (.lzwDcode k) := opField_wordOf _ _ _

theorem lzwDec : Statement .lzwDec := opField_wordOf _ _ _

theorem fwAssign : Statement .fwAssign := opField_wordOf _ _ _

theorem fwEnc : Statement .fwEnc := opField_wordOf _ _ _

theorem fwDec : Statement .fwDec := opField_wordOf _ _ _

end Sys2Proof.Laws.OpField
end

