-- ==== Sys2Proof/Tests/Slice0.lean ====
section
/-! SUPPORT. The model's own tests: the ill-formed term, a word of every command written out from the spec's
encodings, one step of every command with the spec's own expected result, and states that meet the hypotheses of the
statements. -/

namespace Sys2Proof.Tests

/-! The tests are checked one after another: checked all at once they would need more threads than there are. -/

set_option Elab.async false

open Sys2Proof Sys2Proof.Machine

/-! ### Helpers -/

/-- Small capacities that meet `00_scope.md` R6. -/
def smallCfg : Config := { ibufBytes := 8, obufBytes := 4, bitcap := 16, cbufWords := 8 }

/-- The reset state with the small capacities. -/
def s0 : State := { State.reset with cfg := smallCfg }

/-- `s` with these input bytes. -/
def withInput (s : State) (l : List Byte) : State :=
  { s with ibuf := l.zipIdx.map fun p => (p.2, p.1), ilen := word32 l.length }

/-- `s` with these codes in CBUF. -/
def withCodes (s : State) (l : List Code) : State :=
  { s with cbuf := l.zipIdx.map fun p => (p.2, p.1), clen := word32 l.length }

/-- The state an outcome goes on with. -/
def after (o : Host.Outcome State Fault Refusal) : State :=
  match o with
  | .next t => t
  | .fault _ => State.reset
  | .refused _ => State.reset

/-- The response word a command ends in. -/
def response (i : Instr) (s : State) : Option Word64 := (after (exec i s)).rsp

/-- The codebook a = "0", b = "11", c = "10" of the spec's examples. -/
def abc : Vector CbEntry 256 :=
  cbSet (cbSet (cbSet cbCleared 0x61 ⟨true, 1, 0⟩) 0x62 ⟨true, 2, 3⟩) 0x63 ⟨true, 2, 2⟩

/-- A bit sequence from its characters' values. -/
def bitsFrom (l : List Nat) : List Bool := l.map (· == 1)

/-- The state before HTB.STEP in trace A of `42_huffman_tree_builder.md`: leaves a 3, b 2, c 1. -/
def traceA : State :=
  { State.reset with
    nleaf := 3, nodes := [leafNode 0x61 3, leafNode 0x62 2, leafNode 0x63 1], heap := [⟨1, 2⟩, ⟨3, 0⟩, ⟨2, 1⟩] }

/-- Trace A after its two merges. -/
def traceA2 : State :=
  { traceA with
    nodes := traceA.nodes ++ [⟨3, false, 0, 2, 1⟩, ⟨6, false, 0, 0, 3⟩], heap := [⟨6, 4⟩], phase := .merge }

/-- The fixed-width example of `44_fixed_width.md` R252 after FW.ASSIGN: a = "00", b = "01", c = "10". -/
def fixedAbc : State := after (exec .fwAssign traceA)

/-- An open encoder session with the match A and the entry AB (trace A of `43_lzw_dict_accumulator.md`). -/
def midEncode : State :=
  { withCodes s0 [65, 66] with edict := [⟨65, 66⟩, ⟨66, 65⟩], ew := some 65, eActive := true }

/-- An open decoder session one code behind (trace B of `43_lzw_dict_accumulator.md`). -/
def midDecode : State :=
  { State.reset with
    ddict := [⟨65, 66⟩, ⟨66, 65⟩], dprev := some 256, dActive := true, obuf := [65, 66, 65, 66] }

/-- A state in which FAULT is set. -/
def faulty : State := { s0 with faulted := true, errcode := 0x80, errinfo := 1 }

/-! ### Well-formedness and decoding -/

theorem test_wellFormed_refuses_header_with_length : (Instr.bssUnpack true 5).wellFormed = false := by decide
theorem test_wellFormed_takes_header_alone : (Instr.bssUnpack true 0).wellFormed = true := by decide
theorem test_decode_refuses_header_with_length : decode 0x1600000100000005 = .error .badField := by decide
theorem test_decode_nop : decode 0x0000000000000000 = .ok .nop := by decide
theorem test_decode_reset : decode 0x0100000000000000 = .ok .reset := by decide
theorem test_decode_rd : decode 0x0290010200000000 = .ok (.rd 9 258) := by decide
theorem test_decode_wr : decode 0x0310000000000061 = .ok (.wr 1 0 0x61) := by decide
theorem test_decode_bssClr : decode 0x1000000000000000 = .ok .bssClr := by decide
theorem test_decode_bssAppend : decode 0x1100000300000005 = .ok (.bssAppend 3 5) := by decide
theorem test_decode_bssAppsym : decode 0x1200006200000000 = .ok (.bssAppsym 0x62) := by decide
theorem test_decode_bssEnc : decode 0x1300000000000000 = .ok .bssEnc := by decide
theorem test_decode_bssDec : decode 0x1400000000000000 = .ok .bssDec := by decide
theorem test_decode_bssPack : decode 0x1500000100000000 = .ok (.bssPack true) := by decide
theorem test_decode_bssUnpack : decode 0x1600000000000009 = .ok (.bssUnpack false 9) := by decide
theorem test_decode_htbClr : decode 0x2000000000000000 = .ok .htbClr := by decide
theorem test_decode_htbLoad : decode 0x2100006100000003 = .ok (.htbLoad 0x61 3) := by decide
theorem test_decode_htbCount : decode 0x2200000100000000 = .ok (.htbCount true) := by decide
theorem test_decode_htbStep : decode 0x2300000000000000 = .ok .htbStep := by decide
theorem test_decode_htbAssign : decode 0x2400000000000000 = .ok .htbAssign := by decide
theorem test_decode_htbBuild : decode 0x2500000000000000 = .ok .htbBuild := by decide
theorem test_decode_lzwEinit : decode 0x3000000000000000 = .ok .lzwEinit := by decide
theorem test_decode_lzwEbyte : decode 0x3100004100000000 = .ok (.lzwEbyte 0x41) := by decide
theorem test_decode_lzwEflush : decode 0x3200000000000000 = .ok .lzwEflush := by decide
theorem test_decode_lzwEnc : decode 0x3300000000000000 = .ok .lzwEnc := by decide
theorem test_decode_lzwDinit : decode 0x3400000000000000 = .ok .lzwDinit := by decide
theorem test_decode_lzwDcode : decode 0x3500010200000000 = .ok (.lzwDcode 258) := by decide
theorem test_decode_lzwDec : decode 0x3600000000000000 = .ok .lzwDec := by decide
theorem test_decode_fwAssign : decode 0x4000000000000000 = .ok .fwAssign := by decide
theorem test_decode_fwEnc : decode 0x4100000000000000 = .ok .fwEnc := by decide
theorem test_decode_fwDec : decode 0x4200000000000000 = .ok .fwDec := by decide
theorem test_decode_illegal : decode 0x0400000000000000 = .error .illegalOp := by decide
theorem test_decode_bad_field : decode 0x2300000000000001 = .error .badField := by decide

/-! ### One step of every command, with the results the spec prints -/

theorem test_nop : response .nop faulty = some 0 := by decide +kernel
theorem test_reset_clears_fault :
    response .reset faulty = some 0 ∧ (after (exec .reset faulty)).faulted = false := by decide +kernel
theorem test_rd_id : response (.rd 0 0) s0 = some 0x0000000048544231 := by decide +kernel
theorem test_rd_empty_obuf : response (.rd 2 0) s0 = some 0x0500000000000000 := by decide +kernel
theorem test_wr_lzwCap_refused : response (.wr 0 9 100) s0 = some 0x0600000000000000 := by decide +kernel
theorem test_wr_ibuf : (after (exec (.wr 1 7 0x61) s0)).ibuf = [(7, 0x61)] := by decide +kernel
theorem test_bssClr : (after (exec .bssClr { s0 with bits := [true] })).bits = [] := by decide +kernel
theorem test_bssAppend : (after (exec (.bssAppend 3 5) s0)).bits = bitsFrom [1, 0, 1] := by decide +kernel
theorem test_bssAppend_33 : response (.bssAppend 33 0) s0 = some 0x0600000000000000 := by decide +kernel
theorem test_bssAppsym : (after (exec (.bssAppsym 0x62) { s0 with cb := abc })).bits = bitsFrom [1, 1] := by
  decide +kernel
theorem test_bssAppsym_skips : response (.bssAppsym 0x7A) { s0 with cb := abc, bits := [true, true] } = some 2 := by
  decide +kernel
theorem test_bssEnc :
    (after (exec .bssEnc { withInput s0 [0x61, 0x61, 0x61, 0x62, 0x62, 0x63] with cb := abc })).bits =
      bitsFrom [0, 0, 0, 1, 1, 1, 1, 1, 0] := by decide +kernel
theorem test_bssDec_leftover : response .bssDec { s0 with cb := abc, bits := bitsFrom [0, 1, 0, 1] } =
    some 0x8100000000000003 := by decide +kernel
theorem test_bssDec_output :
    (after (exec .bssDec { s0 with cb := abc, bits := bitsFrom [0, 1, 0, 1] })).obuf = [0x61, 0x63] := by
  decide +kernel
theorem test_bssPack_header :
    (after (exec (.bssPack true)
      { State.reset with bits := bitsFrom [0, 0, 0, 1, 1, 1, 1, 1, 0] })).obuf = [0, 0, 0, 9, 0x1F, 0] := by
  decide +kernel
theorem test_bssPack_bare :
    (after (exec (.bssPack false) { s0 with bits := bitsFrom [0, 0, 0, 1, 1, 1, 1, 1, 0] })).obuf = [0x1F, 0] := by
  decide +kernel
theorem test_bssUnpack_header :
    (after (exec (.bssUnpack true 0) (withInput s0 [0, 0, 0, 9, 0x1F, 0xFF]))).bits =
      bitsFrom [0, 0, 0, 1, 1, 1, 1, 1, 1] := by decide +kernel
theorem test_bssUnpack_short : response (.bssUnpack false 8) (withInput s0 [0x1F, 0]) = some 0x0900000000000000 := by
  decide +kernel
theorem test_htbClr : (after (exec .htbClr fixedAbc)).phase = .load := by decide +kernel
theorem test_htbLoad : (after (exec (.htbLoad 0x63 1) { traceA with
    nleaf := 2, nodes := traceA.nodes.take 2, heap := [⟨2, 1⟩, ⟨3, 0⟩] })).heap = [⟨1, 2⟩, ⟨3, 0⟩, ⟨2, 1⟩] := by
  decide +kernel
theorem test_htbLoad_duplicate : response (.htbLoad 0x61 9) traceA = some 0x0700000000000000 := by decide +kernel
theorem test_htbCount_order :
    ((after (exec (.htbCount true) (withInput s0 [0x63, 0x62, 0x61, 0x62, 0x63]))).nodes.map Node.sym) =
      [0x62, 0x63, 0x61] := by decide +kernel
theorem test_htbCount_plain :
    ((after (exec (.htbCount false) (withInput s0 [0x63, 0x62, 0x61, 0x62, 0x63]))).nodes.map Node.sym) =
      [0x61, 0x62, 0x63] := by decide +kernel
theorem test_htbStep : (after (exec .htbStep traceA)).nodes[3]? = some ⟨3, false, 0, 2, 1⟩ := by decide +kernel
theorem test_htbStep_heap : (after (exec .htbStep traceA)).heap = [⟨3, 0⟩, ⟨3, 3⟩] := by decide +kernel
theorem test_htbAssign : codeOf (after (exec .htbAssign traceA2)).cb 0x62 = some [true, true] := by decide +kernel
theorem test_htbAssign_totals : (after (exec .htbAssign traceA2)).totbits = 9 := by decide +kernel
theorem test_htbBuild : response .htbBuild traceA = some 4 := by decide +kernel
theorem test_htbBuild_one_leaf :
    codeOf (after (exec .htbBuild { State.reset with
      nleaf := 1, nodes := [leafNode 0x78 5], heap := [⟨5, 0⟩] })).cb 0x78 = some [false] := by decide +kernel
theorem test_lzwEinit : (after (exec .lzwEinit midEncode)).clen = 0 := by decide +kernel
theorem test_lzwEbyte_extends : (after (exec (.lzwEbyte 66) midEncode)).ew = some 256 := by decide +kernel
theorem test_lzwEbyte_emits : response (.lzwEbyte 67) midEncode = some 0x0000000000010041 := by decide +kernel
theorem test_lzwEflush : response .lzwEflush midEncode = some 0x0000000000010041 := by decide +kernel
theorem test_lzwEnc :
    (after (exec .lzwEnc (withInput State.reset [65, 66, 65, 66, 65, 66, 65]))).cbuf =
      [(0, 65), (1, 66), (2, 256), (3, 258)] := by decide +kernel
theorem test_lzwDinit : (after (exec .lzwDinit midDecode)).obuf = [] := by decide +kernel
theorem test_lzwDcode_self_referential :
    (after (exec (.lzwDcode 258) midDecode)).obuf = [65, 66, 65, 66, 65, 66, 65] := by decide +kernel
theorem test_lzwDcode_bad : response (.lzwDcode 259) midDecode = some 0x8000000000000103 := by decide +kernel
theorem test_lzwDec :
    (after (exec .lzwDec (withCodes State.reset [65, 66, 256, 258]))).obuf = [65, 66, 65, 66, 65, 66, 65] := by
  decide +kernel
theorem test_lzwDec_bad : response .lzwDec (withCodes State.reset [65, 300]) = some 0x8000000000000001 := by
  decide +kernel
/-- R236 by hand on codes no encoder makes: it stores one pair twice (log entry 10). -/
theorem test_lzwDec_repeats_a_pair :
    (after (exec .lzwDec (withCodes State.reset [65, 65, 65]))).ddict = [⟨65, 65⟩, ⟨65, 65⟩] := by decide +kernel
theorem test_fwAssign : codeOf fixedAbc.cb 0x63 = some [true, false] := by decide +kernel
theorem test_fwAssign_status : statusWord fixedAbc = 0x0000001C := by decide +kernel
theorem test_fwEnc :
    (after (exec .fwEnc (withInput fixedAbc [0x61, 0x61, 0x61, 0x62, 0x62, 0x63]))).bits =
      bitsFrom [0, 0, 1, 0, 0, 0, 0, 0, 0, 0, 1, 0, 1, 1, 0, 0] := by decide +kernel
theorem test_fwDec :
    (after (exec .fwDec { fixedAbc with
      bits := bitsFrom [0, 0, 1, 0, 0, 0, 0, 0, 0, 0, 1, 0, 1, 1, 0, 0] })).obuf =
      [0x61, 0x61, 0x61, 0x62, 0x62, 0x63] := by decide +kernel
theorem test_fwDec_format : response .fwDec { fixedAbc with bits := [true] } = some 0x8200000000000000 := by
  decide +kernel
theorem test_withFetchWord_runs_next :
    (after (step (State.reset.withFetchWord 64 0x0200000000000000))).rsp = some 0x0000000048544231 := by
  decide +kernel
theorem test_decodeTableWord : decodeTableWord 64 0x2100006100000003 = some (.htbLoad 0x61 3) := by decide

/-! ### Witnesses: states and operands that meet the hypotheses of each statement, clause by clause, at the edges of
the clauses' ranges -/

/-- Code lengths are right and no code begins another in the example codebook. -/
def shortLens (cb : Vector CbEntry 256) : Bool := cb.toList.all fun e => e.len.toNat ≤ 255 && (!e.valid || 1 ≤ e.len.toNat)

theorem witness_EncodeThenDecode :
    (Instr.bssUnpack true 0).wellFormed = true ∧ (Instr.bssUnpack false 0xFFFFFFFF).wellFormed = true ∧
    (Instr.wr 15 0xFFFFF 0xFFFFFFFF).wellFormed = true := by decide +kernel
theorem witness_DecodeThenEncode : decode 0x16000000FFFFFFFF = .ok (.bssUnpack false 0xFFFFFFFF) := by decide +kernel
theorem witness_WordsRunOrAreRefused_illegal :
    { s0 with inputs := [.command 0x4300000000000000] }.inputs = [.command 0x4300000000000000] ∧
    ∀ r ∈ opcodeTable, (0x4300000000000000 : Word64).extractLsb' 56 8 ≠ r.op := by decide +kernel
theorem witness_WordsRunOrAreRefused_field :
    (⟨0x23, 0xFFFFFFFFFFFFFFFF, 0x2300000000000000⟩ : OpcodeRow) ∈ opcodeTable ∧
    (0x2300000000000001 : Word64).extractLsb' 56 8 = 0x23 ∧
    ¬ OpcodeRow.Accepts ⟨0x23, 0xFFFFFFFFFFFFFFFF, 0x2300000000000000⟩ 0x2300000000000001 := by decide +kernel
theorem witness_WordsRunOrAreRefused_constraint :
    (⟨0x16, 0xFFFFFFFE00000000, 0x1600000000000000⟩ : OpcodeRow) ∈ opcodeTable ∧
    ¬ OpcodeRow.Accepts ⟨0x16, 0xFFFFFFFE00000000, 0x1600000000000000⟩ 0x1600000100000001 := by decide +kernel
theorem witness_WordsRunOrAreRefused_runs :
    OpcodeRow.Accepts ⟨0x16, 0xFFFFFFFE00000000, 0x1600000000000000⟩ 0x1600000100000000 ∧
    OpcodeRow.Accepts ⟨0x42, 0xFFFFFFFFFFFFFFFF, 0x4200000000000000⟩ 0x4200000000000000 := by decide +kernel
theorem witness_StepRunsDecodedCommand :
    { s0 with inputs := [.command 0x2300000000000000], rsp := some 5 }.inputs = [.command 0x2300000000000000] ∧
    decode 0x2300000000000000 = .ok .htbStep := by decide +kernel
theorem witness_IdleHoldsStateAndResponsesTransfer :
    State.reset.inputs = [] ∧ { s0 with inputs := [.takeResponse], rsp := some 5 }.inputs = [.takeResponse] := by
  decide +kernel
theorem witness_OutcomesAreRecordedAndAnswered : s0.faulted = false ∧ faulty.faulted = true := by decide +kernel
theorem witness_EveryCommandSucceedsRefusesOrFaults : Instr.bssDec ≠ .reset := by decide +kernel
theorem witness_FaultGateRefusesCommands_gated : faulty.faulted = true ∧ gated .lzwDinit = true := by decide +kernel
theorem witness_FaultGateRefusesCommands_malformed :
    { faulty with inputs := [.command 0xFF00000000000000] }.faulted = true ∧
    decode 0xFF00000000000000 = .error .illegalOp := by decide +kernel
theorem witness_FaultGateRefusesCommands_rd :
    exec (.rd 2 0) faulty = .next (after (exec (.rd 2 0) faulty)) := rfl
theorem witness_FaultGateRefusesCommands_reset :
    ResetNext { faulty with inputs := [.command 0x0100000000000000] } ∧
    ResetNext { faulty with inputs := [.assertReset] } ∧
    ¬ ResetNext { faulty with inputs := [.command 0x3400000000000000] } := by
  refine ⟨?_, trivial, ?_⟩ <;> simp only [ResetNext] <;> decide +kernel
theorem witness_ErrorRegistersFollowOutcomes_success :
    ¬ ResetNext { s0 with inputs := [.command 0] } ∧ { s0 with inputs := [.command 0] }.faulted = false := by
  simp only [ResetNext]; decide +kernel
theorem witness_ErrorRegistersFollowOutcomes_fault :
    ¬ ResetNext { s0 with cb := abc, bits := [true], inputs := [.command 0x1400000000000000] } ∧
    (after (step { s0 with cb := abc, bits := [true], inputs := [.command 0x1400000000000000] })).err = some 0x81 := by
  refine ⟨?_, by decide +kernel⟩
  simp only [ResetNext]; decide +kernel
theorem witness_ErrorRegistersFollowOutcomes_frozen : ¬ ResetNext faulty ∧ faulty.faulted = true := by
  refine ⟨?_, by decide +kernel⟩
  show ¬ False
  decide
theorem witness_CommandCounterCountsAndNothingElse_words :
    decode 0x0100000000000000 = .ok .reset ∧ decode 0xFF00000000000000 ≠ .ok .reset := by decide +kernel
theorem witness_CommandCounterCountsAndNothingElse_others : Instr.rd 0 5 ≠ .rd 0 4 ∧ Instr.lzwEnc ≠ .rd 0 4 := by
  decide +kernel
theorem witness_FrameOfEveryCommand :
    Storage.cbuf ∉ writes (.lzwDec) ∧ Storage.ibuf ∉ writes (.wr 4 0 0) ∧ Storage.lzwCap ∉ writes (.wr 0 8 0) := by
  decide +kernel
theorem witness_StoresChangeOnlyTheirCells :
    (after (exec (.lzwEbyte 67) midEncode)).clen = 3 ∧ midEncode.clen.toNat = 2 ∧
    (after (exec .lzwEnc (withInput s0 [65, 65, 65]))).clen.toNat = 2 := by decide +kernel
theorem witness_unfaulted : s0.faulted = false ∧ midEncode.faulted = false ∧ traceA.faulted = false := by decide +kernel
theorem witness_RdReturnsRegisters : 0x1B ≤ (0x1B : BitVec 20).toNat := by decide +kernel
theorem witness_RdReturnsWindowElements_obuf :
    midDecode.obuf[(3 : BitVec 20).toNat]? = some 66 ∧ midDecode.obuf.length ≤ (4 : BitVec 20).toNat := by decide +kernel
theorem witness_RdReturnsWindowElements_buffers :
    (7 : BitVec 20).toNat < s0.cfg.ibufBytes ∧ s0.cfg.ibufBytes ≤ (8 : BitVec 20).toNat ∧
    (7 : BitVec 20).toNat < s0.cfg.cbufWords ∧ s0.cfg.cbufWords ≤ (8 : BitVec 20).toNat := by decide +kernel
theorem witness_RdReturnsWindowElements_bbuf :
    (toBytes (bitsFrom [1, 0, 0, 0, 0, 0, 0, 0, 1]))[(1 : BitVec 20).toNat]? = some 0x80 ∧
    ((bitsFrom [1, 0, 0, 0, 0, 0, 0, 0, 1]).length + 7) / 8 ≤ (2 : BitVec 20).toNat := by decide +kernel
theorem witness_RdReturnsWindowElements_tree :
    traceA2.nodes[(19 : BitVec 20).toNat / 4]? = some ⟨6, false, 0, 0, 3⟩ ∧
    4 * traceA2.nodes.length ≤ (20 : BitVec 20).toNat ∧
    traceA2.heap[(1 : BitVec 20).toNat / 2]? = some ⟨6, 4⟩ ∧ 2 * traceA2.heap.length ≤ (2 : BitVec 20).toNat := by
  decide +kernel
theorem witness_RdReturnsWindowElements_codebook :
    (0xFF8 : BitVec 20).toNat = 16 * (0xFF : Byte).toNat + 8 ∧ 9 ≤ (0xFF9 : BitVec 20).toNat % 16 ∧
    4096 ≤ (0x1000 : BitVec 20).toNat := by decide +kernel
theorem witness_RdReturnsWindowElements_dictionaries :
    (255 : BitVec 20).toNat < 256 ∧ midEncode.edict[(257 : BitVec 20).toNat - 256]? = some ⟨66, 65⟩ ∧
    256 + midEncode.edict.length ≤ (258 : BitVec 20).toNat ∧ 10 ≤ (10 : BitVec 4).toNat := by decide +kernel
theorem witness_WrSetsRegisters_lengths :
    (8 : Word32).toNat ≤ s0.cfg.ibufBytes ∧ s0.cfg.ibufBytes < (9 : Word32).toNat ∧
    (8 : Word32).toNat ≤ s0.cfg.cbufWords ∧ s0.cfg.cbufWords < (9 : Word32).toNat := by decide +kernel
theorem witness_WrSetsRegisters_cap :
    midEncode.eActive = true ∧ s0.eActive = false ∧ s0.dActive = false ∧ (255 : Word32).toNat < 256 ∧
    65536 < (65537 : Word32).toNat ∧ 256 ≤ (256 : Word32).toNat ∧ (65536 : Word32).toNat ≤ 65536 := by decide +kernel
theorem witness_WrSetsBufferCells :
    (7 : BitVec 20).toNat < s0.cfg.ibufBytes ∧ (255 : Word32).toNat ≤ 0xFF ∧ 0xFF < (256 : Word32).toNat ∧
    (7 : BitVec 20).toNat < s0.cfg.cbufWords ∧ (65535 : Word32).toNat ≤ 0xFFFF ∧ 0xFFFF < (65536 : Word32).toNat := by
  decide +kernel
theorem witness_WrSetsCodebookWords_refused :
    (0x610 : BitVec 20).toNat = 16 * (0x61 : Byte).toNat ∧
    (0x00000200 : Word32).toNat / 2 ^ 9 % 2 ^ 22 ≠ 0 ∧ 255 < (0x00000100 : Word32).toNat % 2 ^ 9 ∧
    2 ^ 31 ≤ (0x80000000 : Word32).toNat ∧ (0x80000000 : Word32).toNat % 2 ^ 9 = 0 := by decide +kernel
theorem witness_WrSetsCodebookWords_taken :
    (0x800000FF : Word32).toNat / 2 ^ 9 % 2 ^ 22 = 0 ∧ (0x800000FF : Word32).toNat % 2 ^ 9 ≤ 255 ∧
    (0x800000FF : Word32).toNat % 2 ^ 9 ≠ 0 ∧ (0x618 : BitVec 20).toNat = 16 * (0x61 : Byte).toNat + 8 := by decide +kernel
theorem witness_WrElsewhereIsRefused :
    (0x04 : BitVec 20) ≠ 0x05 ∧ (0x04 : BitVec 20) ≠ 0x08 ∧ (0x04 : BitVec 20) ≠ 0x09 ∧
    s0.cfg.ibufBytes ≤ (8 : BitVec 20).toNat ∧ (2 : BitVec 4) ∉ ([0, 1, 4, 7] : List (BitVec 4)) ∧
    (∀ space addr v, Instr.lzwEnc ≠ .wr space addr v) := by
  refine ⟨by decide +kernel, by decide +kernel, by decide +kernel, by decide +kernel, by decide +kernel, fun _ _ _ h => by cases h⟩
theorem witness_AppendAddsBits :
    (33 : BitVec 6).toNat > 32 ∧ 1 ≤ (1 : BitVec 6).toNat ∧ (32 : BitVec 6).toNat ≤ 32 ∧
    s0.cfg.bitcap < s0.bits.length + (17 : BitVec 6).toNat ∧ s0.bits.length + (16 : BitVec 6).toNat ≤ s0.cfg.bitcap := by
  decide +kernel
theorem witness_CodeReadsContainerBits : (cbEntry abc 0x62).valid = true ∧ (cbEntry abc 0x7A).valid = false := by
  decide +kernel
theorem witness_SymbolsAppendTheirCodes_skip :
    { s0 with cb := abc }.faulted = false ∧ codeOf { s0 with cb := abc }.cb 0x7A = none := by decide +kernel
theorem witness_SymbolsAppendTheirCodes_symbol :
    codeOf { s0 with cb := abc }.cb 0x62 = some [true, true] ∧
    { s0 with cb := abc, bits := List.replicate 15 true }.cfg.bitcap <
      { s0 with cb := abc, bits := List.replicate 15 true }.bits.length + [true, true].length ∧
    { s0 with cb := abc, bits := List.replicate 14 true }.bits.length + [true, true].length ≤ s0.cfg.bitcap := by
  decide +kernel
theorem witness_SymbolsAppendTheirCodes_input :
    [true, true, false] = (((List.range (withInput s0 [0x62, 0x61]).ilen.toNat).map
      (withInput s0 [0x62, 0x61]).ibufRead).filterMap (codeOf abc)).flatten ∧
    s0.cfg.bitcap < (List.replicate 14 true).length + [true, true, false].length ∧
    (List.replicate 13 true).length + [true, true, false].length ≤ s0.cfg.bitcap := by decide +kernel
theorem witness_AppendKeepsEarlierBits :
    (after (exec (.bssAppend 17 0) { s0 with bits := [true] })).err ≠ some 0 ∧
    (after (exec (.bssAppend 15 0) { s0 with bits := [true] })).err = some 0 := by decide +kernel
theorem witness_BytesAndBitsConvert :
    (toBytes (bitsFrom [1, 0, 0, 0, 0, 0, 0, 0, 1]))[1]? = some 0x80 ∧ ([0x80, 0xFF] : List Byte).length = (9 + 7) / 8 ∧
    8 < 9 ∧ ([0x80, 0xFF] : List Byte)[8 / 8]? = some 0xFF := by decide +kernel
/-- A cut checked on the beginnings of its parts. -/
theorem cut_of_inits {cb : Vector CbEntry 256} {stream : List Bool} {parts : List (List Bool × Byte)}
    {rest : List Bool} (h1 : stream = (parts.map Prod.fst).flatten ++ rest)
    (h2 : ∀ x ∈ parts, x.1 ≠ [] ∧ codeOf cb x.2 = some x.1 ∧ (∀ r, codeOf cb r = some x.1 → x.2.toNat ≤ r.toNat) ∧
      ∀ q ∈ x.1.inits, q ≠ [] → q ≠ x.1 → ∀ r, codeOf cb r ≠ some q)
    (h3 : ∀ q ∈ rest.inits, q ≠ [] → ∀ r, codeOf cb r ≠ some q) : CutAtMatches cb stream parts rest :=
  ⟨h1, fun x hx => ⟨(h2 x hx).1, (h2 x hx).2.1, (h2 x hx).2.2.1,
    fun q hq => (h2 x hx).2.2.2 q ((List.mem_inits _ _).2 hq)⟩, fun q hq => h3 q ((List.mem_inits _ _).2 hq)⟩
theorem witness_DecodeFollowsShortestMatches_full :
    CutAtMatches abc { s0 with cb := abc, bits := bitsFrom [0, 0, 0, 0, 0] }.bits (List.replicate 5 ([false], 0x61)) [] ∧
    s0.cfg.obufBytes < (List.replicate 5 ([false], (0x61 : Byte))).length :=
  ⟨cut_of_inits (by decide +kernel) (by decide +kernel) (by decide +kernel), by decide⟩
theorem witness_DecodeFollowsShortestMatches_done :
    CutAtMatches abc { s0 with cb := abc, bits := bitsFrom [0, 1, 0, 0, 0] }.bits
      [([false], 0x61), ([true, false], 0x63), ([false], 0x61), ([false], 0x61)] [] ∧
    [([false], (0x61 : Byte)), ([true, false], 0x63), ([false], 0x61), ([false], 0x61)].length ≤ s0.cfg.obufBytes :=
  ⟨cut_of_inits (by decide +kernel) (by decide +kernel) (by decide +kernel), by decide⟩
theorem witness_DecodeFollowsShortestMatches_leftover :
    CutAtMatches abc { s0 with cb := abc, bits := bitsFrom [0, 1, 0, 1] }.bits
      [([false], 0x61), ([true, false], 0x63)] [true] ∧
    [([false], (0x61 : Byte)), ([true, false], 0x63)].length ≤ s0.cfg.obufBytes ∧ [true] ≠ [] :=
  ⟨cut_of_inits (by decide +kernel) (by decide +kernel) (by decide +kernel), by decide, by decide⟩
/-- The symbols of the example codebook and their codes. -/
theorem abc_codes :
    ∀ a, codeOf abc a = none ∨
      (a, codeOf abc a) ∈ [((0x61 : Byte), some [false]), (0x62, some [true, true]), (0x63, some [true, false])] := by
  decide +kernel
/-- No code of the example codebook begins another. -/
theorem abc_prefixFree : PrefixFree abc := by
  intro a b hab p hp q hq
  rw [Option.mem_def] at hp hq
  have ha := abc_codes a
  have hb := abc_codes b
  rw [hp] at ha
  rw [hq] at hb
  simp only [reduceCtorEq, false_or, List.mem_cons, List.not_mem_nil, or_false, Prod.mk.injEq,
    Option.some.injEq] at ha hb
  rcases ha with ⟨rfl, rfl⟩ | ⟨rfl, rfl⟩ | ⟨rfl, rfl⟩ <;> rcases hb with ⟨rfl, rfl⟩ | ⟨rfl, rfl⟩ | ⟨rfl, rfl⟩ <;>
    first | exact absurd rfl hab | decide
/-- Lengths checked with Bools are right. -/
theorem lengths_of_check {cb : Vector CbEntry 256} (h : shortLens cb = true) : CodeLengthsOk cb := by
  intro e he
  have h1 := List.all_eq_true.1 h e he
  simp only [Bool.and_eq_true, decide_eq_true_eq, Bool.or_eq_true, Bool.not_eq_true'] at h1
  exact ⟨h1.1, fun hv => h1.2.resolve_left (by simp [hv])⟩
theorem witness_VariableLengthRoundTrip :
    CodeLengthsOk abc ∧ PrefixFree abc ∧
    (∀ c ∈ (withInput s0 [0x61, 0x62, 0x63, 0x61]).inputBytes, (cbEntry abc c).valid = true) ∧
    (encodeBytes abc (withInput s0 [0x61, 0x62, 0x63, 0x61]).inputBytes).length ≤ s0.cfg.bitcap ∧
    (withInput s0 [0x61, 0x62, 0x63, 0x61]).ilen.toNat ≤ s0.cfg.obufBytes :=
  ⟨lengths_of_check (by decide +kernel), abc_prefixFree, by decide +kernel, by decide +kernel, by decide +kernel⟩
theorem witness_PackWritesTheArtifact :
    4 + ({ s0 with bits := [] }.bits.length + 7) / 8 ≤ s0.cfg.obufBytes ∧
    s0.cfg.obufBytes < 4 + ({ s0 with bits := [true] }.bits.length + 7) / 8 ∧
    ({ s0 with bits := List.replicate 32 true }.bits.length + 7) / 8 ≤ s0.cfg.obufBytes ∧
    s0.cfg.obufBytes < ({ s0 with bits := List.replicate 33 true }.bits.length + 7) / 8 := by decide +kernel
theorem witness_UnpackReadsTheArtifact_header :
    (withInput s0 [0, 0, 0]).ilen.toNat < 4 ∧ 4 ≤ (withInput s0 [0, 0, 0, 17]).ilen.toNat ∧ s0.cfg.bitcap < 17 ∧
    16 ≤ s0.cfg.bitcap ∧ (withInput s0 [0, 0, 0, 16, 1]).ilen.toNat ≠ 4 + (16 + 7) / 8 ∧
    (withInput s0 [0, 0, 0, 16, 1, 2]).ilen.toNat = 4 + (16 + 7) / 8 := by decide +kernel
theorem witness_UnpackReadsTheArtifact_bare :
    s0.cfg.bitcap < (17 : Word32).toNat ∧ (16 : Word32).toNat ≤ s0.cfg.bitcap ∧
    (withInput s0 [1]).ilen.toNat ≠ ((16 : Word32).toNat + 7) / 8 ∧
    (withInput s0 [1, 2]).ilen.toNat = ((16 : Word32).toNat + 7) / 8 := by decide +kernel
theorem witness_ArtifactGivesTheStreamBack :
    (after (exec (.bssPack true) { State.reset with bits := [true] })).obuf = [0, 0, 0, 1, 0x80] ∧
    (after (exec (.bssPack true) { State.reset with bits := [true] })).err = some 0 ∧
    (withInput s0 [0, 0, 0, 1, 0x80]).inputBytes = [0, 0, 0, 1, 0x80] := by decide +kernel
theorem witness_LoadAddsALeaf :
    traceA2.phase ≠ .load ∧ traceA.phase = .load ∧ (∃ n ∈ traceA.leaves, n.sym = 0x61) ∧
    (∀ n ∈ traceA.leaves, n.sym ≠ 0x64) := by decide +kernel
theorem witness_HeapPopsTheLeastKey :
    traceA.heap ≠ [] ∧ HeapOrdered traceA.heap ∧ heapPop traceA.heap = some (⟨1, 2⟩, [⟨2, 1⟩, ⟨3, 0⟩]) := by decide +kernel
theorem witness_StepMergesTheTwoLeast :
    traceA2.heap.length < 2 ∧ fixedAbc.phase = .built ∧ traceA.phase ≠ .built ∧ 2 ≤ traceA.heap.length ∧
    HeapOrdered traceA.heap := by decide +kernel
theorem witness_AssignReadsLeafPaths_refused :
    fixedAbc.phase = .built ∧ s0.nleaf = 0 ∧ s0.phase ≠ .built ∧ traceA.nleaf ≠ 0 ∧ traceA.heap.length ≠ 1 := by
  decide +kernel
theorem witness_AssignReadsLeafPaths_tree :
    BuilderOk traceA2 ∧ traceA2.phase ≠ .built ∧ traceA2.nleaf ≠ 0 ∧ traceA2.heap = [⟨6, 4⟩] ∧
    traceA2.faulted = false :=
  ⟨⟨by decide +kernel, by decide +kernel, by decide +kernel⟩, by decide +kernel, by decide +kernel, by decide +kernel,
   by decide +kernel⟩
/-- A table of one leaf (trace E (1) of `42_huffman_tree_builder.md`). -/
def oneLeaf : State := { State.reset with nleaf := 1, nodes := [leafNode 0x78 5], heap := [⟨5, 0⟩] }
theorem witness_AssignReadsLeafPaths_one_leaf :
    BuilderOk oneLeaf ∧ oneLeaf.phase ≠ .built ∧ oneLeaf.nleaf ≠ 0 ∧ oneLeaf.heap = [⟨5, 0⟩] :=
  ⟨⟨by decide +kernel, by decide +kernel, by decide +kernel⟩, by decide +kernel, by decide +kernel, by decide +kernel⟩
theorem witness_BuiltCodeIsPrefixFreeAndComplete :
    BuilderOk traceA ∧ traceA.faulted = false ∧ traceA.phase ≠ .built ∧ traceA.nleaf ≠ 0 ∧ 2 ≤ traceA.nleaf :=
  ⟨⟨by decide +kernel, by decide +kernel, by decide +kernel⟩, by decide +kernel, by decide +kernel, by decide +kernel,
   by decide +kernel⟩
theorem witness_TotalsAreExact :
    BuilderOk traceA2 ∧ 2 ≤ traceA2.nleaf ∧ BuilderOk oneLeaf ∧ oneLeaf.nleaf = 1 ∧ oneLeaf.faulted = false :=
  ⟨witness_AssignReadsLeafPaths_tree.1, by decide +kernel, witness_AssignReadsLeafPaths_one_leaf.1, by decide +kernel,
   by decide +kernel⟩
theorem witness_TotalsAreExact_assign :
    traceA2.faulted = false ∧ traceA2.phase ≠ .built ∧ traceA2.nleaf ≠ 0 ∧ traceA2.heap.length = 1 ∧
    oneLeaf.phase ≠ .built ∧ oneLeaf.nleaf ≠ 0 ∧ oneLeaf.heap.length = 1 := by decide +kernel
theorem witness_BuildIsStepsThenAssign : traceA.phase ≠ .built ∧ traceA.nleaf ≠ 0 ∧ 1 ≤ traceA.heap.length := by
  decide +kernel
/-- The table of trace A with its keys in another order of the heap array. -/
def traceA' : State := { traceA with heap := [⟨1, 2⟩, ⟨2, 1⟩, ⟨3, 0⟩] }
theorem witness_BuildIsStepsThenAssign_table :
    BuilderOk traceA ∧ HeapOrdered traceA.heap ∧ traceA.phase = .load ∧ traceA'.faulted = false ∧ BuilderOk traceA' ∧
    HeapOrdered traceA'.heap ∧ traceA'.phase = .load ∧ traceA.leaves = traceA'.leaves ∧ traceA.nleaf ≠ 0 ∧
    (succeedAll (List.replicate 2 .htbStep) traceA).isSome = true ∧
    (succeedAll (List.replicate 1 .htbStep) traceA').isSome = true :=
  ⟨witness_BuiltCodeIsPrefixFreeAndComplete.1, by decide +kernel, by decide +kernel, by decide +kernel,
   ⟨by decide +kernel, by decide +kernel, by decide +kernel⟩, by decide +kernel, by decide +kernel, by decide +kernel,
   by decide +kernel, by decide +kernel, by decide +kernel⟩
theorem witness_HuffmanFlowRoundTrips :
    1 ≤ (withInput s0 [0x61, 0x61, 0x62]).ilen.toNat ∧
    (withInput s0 [0x61, 0x61, 0x62]).ilen.toNat ≤ s0.cfg.obufBytes ∧
    ((succeedAll [.htbCount false, .htbBuild] (withInput s0 [0x61, 0x61, 0x62])).map fun u => u.totbits) = some 3 := by
  decide +kernel
theorem witness_DictionaryStringsUnfold : DictOk midEncode.edict ∧ midEncode.edict[1]? = some ⟨66, 65⟩ := by decide +kernel
theorem witness_EncoderStepFollowsItsRule_plain :
    s0.eActive = false ∧ midEncode.eActive = true ∧ { midEncode with ew := none }.ew = none := by decide +kernel
theorem witness_EncoderStepFollowsItsRule_found :
    midEncode.ew = some 65 ∧ midEncode.edict.Nodup ∧ midEncode.edict[0]? = some ⟨65, 66⟩ := by decide +kernel
theorem witness_EncoderStepFollowsItsRule_emits :
    (⟨65, 67⟩ : DictEntry) ∉ midEncode.edict ∧ midEncode.clen.toNat ≠ midEncode.cfg.cbufWords ∧
    { midEncode with clen := 8 }.clen.toNat = midEncode.cfg.cbufWords := by decide +kernel
theorem witness_EncoderFlushFollowsItsRule :
    s0.eActive = false ∧ { s0 with eActive := true }.ew = none ∧ midEncode.ew = some 65 ∧
    midEncode.clen.toNat ≠ midEncode.cfg.cbufWords ∧ { midEncode with clen := 8 }.clen.toNat = s0.cfg.cbufWords := by
  decide +kernel
theorem witness_WholeEncodeIsStepwiseEncode :
    BuffersFit (withInput s0 [65, 66, 65, 66, 67, 68, 69, 70]) ∧
    (withInput s0 [65, 66, 65, 66, 67, 68, 69, 70]).faulted = false ∧ BuffersFit (withInput s0 []) := by
  decide +kernel
theorem witness_EncoderEmitsTheTextbookCodes :
    BuffersFit { withInput s0 [65, 66, 65] with lzwCap := 256 } ∧
    { withInput s0 [65, 66, 65] with lzwCap := 256 }.faulted = false ∧
    256 ≤ { withInput s0 [65, 66, 65] with lzwCap := 256 }.lzwCap.toNat ∧
    (withInput s0 [65, 66, 65]).lzwCap.toNat ≤ 65536 := by decide +kernel
theorem witness_LzwRoundTrips :
    BuffersFit (withInput s0 [65, 66, 65, 66]) ∧ (withInput s0 [65, 66, 65, 66]).faulted = false ∧
    256 ≤ (withInput s0 [65, 66, 65, 66]).lzwCap.toNat ∧ (withInput s0 [65, 66, 65, 66]).lzwCap.toNat ≤ 65536 ∧
    (withInput s0 [65, 66, 65, 66]).ilen.toNat ≤ (withInput s0 [65, 66, 65, 66]).cfg.obufBytes := by decide +kernel
theorem witness_DecoderStepFollowsItsRule_first :
    s0.dActive = false ∧ { midDecode with dprev := none }.dprev = none ∧ 256 ≤ (256 : Code).toNat ∧
    (255 : Code).toNat < 256 ∧ { midDecode with cfg := smallCfg }.cfg.obufBytes < midDecode.obuf.length + 1 := by decide +kernel
theorem witness_DecoderStepFollowsItsRule_bad :
    256 + midDecode.ddict.length < (259 : Code).toNat ∧ 256 + midDecode.ddict.length = (258 : Code).toNat ∧
    { midDecode with lzwCap := 258 }.lzwCap.toNat ≤ 256 + midDecode.ddict.length := by decide +kernel
theorem witness_DecoderStepFollowsItsRule_known :
    midDecode.dprev = some 256 ∧ (257 : Code).toNat < 256 + midDecode.ddict.length ∧
    codeString midDecode.ddict 257 = [66, 65] ∧ midDecode.obuf.length + [66, 65].length ≤ midDecode.cfg.obufBytes := by
  decide +kernel
theorem witness_DecoderStepFollowsItsRule_self_referential :
    (258 : Code).toNat = 256 + midDecode.ddict.length ∧ 256 + midDecode.ddict.length < midDecode.lzwCap.toNat ∧
    codeString midDecode.ddict 256 = [65, 66] := by decide +kernel
theorem witness_WholeDecodeIsStepwiseDecode_success :
    (succeedAll (.lzwDinit :: (withCodes State.reset [65, 256]).inputCodes.map .lzwDcode)
      (withCodes State.reset [65, 256])).isSome = true := by decide +kernel
theorem witness_WholeDecodeIsStepwiseDecode_fault :
    (withCodes s0 [65, 300]).inputCodes[1]? = some 300 ∧
    ((succeedAll (.lzwDinit :: ((withCodes s0 [65, 300]).inputCodes.take 1).map .lzwDcode)
      (withCodes s0 [65, 300])).map fun u => (after (exec (.lzwDcode 300) u)).err) = some (some 0x80) := by
  decide +kernel
theorem witness_WholeDecodeIsStepwiseDecode_capacity :
    ((succeedAll (.lzwDinit :: ((withCodes s0 [65, 256, 257]).inputCodes.take 2).map .lzwDcode)
      (withCodes s0 [65, 256, 257])).map fun u => (after (exec (.lzwDcode 257) u)).err) = some (some 0x0A) := by
  decide +kernel
theorem witness_DecoderInvertsTheTextbookCodes :
    (withCodes State.reset [65, 66, 256, 258]).inputCodes.map BitVec.toNat =
      textbookEncode State.reset.lzwCap.toNat [] [] [65, 66, 65, 66, 65, 66, 65] ∧
    ([65, 66, 65, 66, 65, 66, 65] : List Byte).length ≤ State.reset.cfg.obufBytes := by decide +kernel
theorem witness_DictionarySequencesStayDistinct_codes :
    ([65, 66, 256] : List Code).map BitVec.toNat <+:
      textbookEncode State.reset.lzwCap.toNat [] [] [65, 66, 65, 66, 65, 66, 65] ∧
    ((succeedAll (.lzwDinit :: [65, 66, 256].map .lzwDcode) State.reset).map fun t => t.dnext) = some 258 := by
  decide +kernel
theorem witness_FixedAssignNumbersTheLeaves :
    traceA2.phase ≠ .load ∧ s0.phase = .load ∧ s0.nleaf = 0 ∧ LeavesOk traceA ∧ traceA.phase = .load ∧
    traceA.nleaf ≠ 0 := by decide +kernel
theorem witness_FixedEncodeFramesTheCodes_empty :
    s0.cbSrc ≠ .fixed ∧ fixedAbc.faulted = false ∧ fixedAbc.cbSrc = .fixed ∧
    ([] : List Bool) = (((List.range fixedAbc.ilen.toNat).map fixedAbc.ibufRead).filterMap
      (codeOf fixedAbc.cb)).flatten ∧
    (3 + ([] : List Bool).length + 5) % 8 = 0 ∧ 3 + ([] : List Bool).length + 5 ≤ fixedAbc.cfg.bitcap := by
  decide +kernel
theorem witness_FixedEncodeFramesTheCodes_full :
    List.replicate 14 false = (((List.range (withInput { fixedAbc with cfg := smallCfg }
      (List.replicate 7 0x61)).ilen.toNat).map (withInput { fixedAbc with cfg := smallCfg }
      (List.replicate 7 0x61)).ibufRead).filterMap (codeOf fixedAbc.cb)).flatten ∧
    (3 + (List.replicate 14 false).length + 7) % 8 = 0 ∧
    smallCfg.bitcap < 3 + (List.replicate 14 false).length + 7 := by decide +kernel
/-- The hypotheses of the statement about FW.DEC, in one place: the width, the padding and the number of groups. -/
def groupsOf (s : State) (b pad n : Nat) : Prop :=
  s.faulted = false ∧ s.cbSrc = .fixed ∧ b = s.fwWidth.toNat ∧ 1 ≤ b ∧ pad = bitsVal (s.bits.take 3) ∧
    n = (s.bits.length - 3 - pad) / b
/-- Group number j of a stream. -/
def groupAt (s : State) (b j : Nat) : Nat := bitsVal ((s.bits.drop (3 + j * b)).take b)
theorem witness_FixedDecodeReadsTheGroups_format :
    groupsOf { fixedAbc with bits := bitsFrom [1, 1] } 2 3 0 ∧ (bitsFrom [1, 1]).length < 3 ∧
    groupsOf { fixedAbc with bits := bitsFrom [1, 1, 1] } 2 7 0 ∧ (bitsFrom [1, 1, 1]).length < 3 + 7 ∧
    groupsOf { fixedAbc with bits := bitsFrom [0, 0, 0, 1] } 2 0 0 ∧ ((bitsFrom [0, 0, 0, 1]).length - 3 - 0) % 2 ≠ 0 := by
  unfold groupsOf
  decide +kernel
theorem witness_FixedDecodeReadsTheGroups_done :
    groupsOf { fixedAbc with bits := bitsFrom [0, 0, 1, 0, 1, 1, 0, 0] } 2 1 2 ∧
    3 + 1 ≤ (bitsFrom [0, 0, 1, 0, 1, 1, 0, 0]).length ∧ ((bitsFrom [0, 0, 1, 0, 1, 1, 0, 0]).length - 3 - 1) % 2 = 0 ∧
    (∀ j, j < 2 → (fixedAbc.leaves[groupAt { fixedAbc with bits := bitsFrom [0, 0, 1, 0, 1, 1, 0, 0] } 2 j]?).map
      Node.sym = ([0x62, 0x63] : List Byte)[j]?) := by
  unfold groupsOf
  decide +kernel
theorem witness_FixedDecodeReadsTheGroups_noCode :
    groupsOf { fixedAbc with bits := bitsFrom [0, 0, 0, 1, 0, 1, 1] } 2 0 2 ∧ ([0x63] : List Byte).length < 2 ∧
    (∀ j, j < 1 → (fixedAbc.leaves[groupAt { fixedAbc with bits := bitsFrom [0, 0, 0, 1, 0, 1, 1] } 2 j]?).map
      Node.sym = ([0x63] : List Byte)[j]?) ∧
    fixedAbc.leaves.length ≤ groupAt { fixedAbc with bits := bitsFrom [0, 0, 0, 1, 0, 1, 1] } 2 1 := by
  unfold groupsOf
  decide +kernel
theorem witness_FixedDecodeReadsTheGroups_full :
    groupsOf { fixedAbc with cfg := smallCfg, bits := List.replicate 13 false } 2 0 5 ∧ smallCfg.obufBytes < 5 ∧
    (∀ j, j ≤ smallCfg.obufBytes →
      groupAt { fixedAbc with cfg := smallCfg, bits := List.replicate 13 false } 2 j < fixedAbc.leaves.length) := by
  unfold groupsOf
  decide +kernel
theorem fixedAbc_codebook : CodebookOk fixedAbc := by
  refine ⟨lengths_of_check (by decide +kernel), by decide +kernel, fun h => absurd h (by decide +kernel),
    by decide +kernel, by decide +kernel⟩
theorem witness_FixedWidthRoundTrips :
    LeavesOk fixedAbc ∧ CodebookOk fixedAbc ∧ fixedAbc.cbSrc = .fixed ∧
    (∀ c ∈ (withInput fixedAbc [0x61, 0x63]).inputBytes, codeOf fixedAbc.cb c ≠ none) ∧
    (framed (encodeBytes fixedAbc.cb (withInput fixedAbc [0x61, 0x63]).inputBytes)).length ≤ fixedAbc.cfg.bitcap :=
  ⟨by decide +kernel, fixedAbc_codebook, by decide +kernel, by decide +kernel, by decide +kernel⟩
theorem witness_StepKeepsHeapOrder : HeapOrdered traceA.heap ∧ HeapOrdered traceA2.heap := by decide +kernel
theorem witness_StepKeepsTheForest : BuilderOk traceA ∧ BuilderOk fixedAbc := by
  exact ⟨⟨by decide +kernel, by decide +kernel, by decide +kernel⟩, by decide +kernel, by decide +kernel,
    by decide +kernel⟩
theorem witness_StepKeepsTheCodebook : BuilderOk fixedAbc ∧ CodebookOk fixedAbc :=
  ⟨witness_StepKeepsTheForest.2, fixedAbc_codebook⟩
theorem witness_StepKeepsTheDictionaries : LzwOk midEncode := by
  refine ⟨by decide +kernel, by decide +kernel, by decide +kernel, by decide +kernel, ?_, by decide +kernel, ?_,
    by decide +kernel, by decide +kernel, by decide +kernel⟩
  · intro c hc
    cases hc
    decide
  · intro c hc
    cases hc
theorem witness_DictionarySequencesStayDistinct_decoder : LzwOk midDecode := by
  refine ⟨by decide +kernel, by decide +kernel, by decide +kernel, by decide +kernel, ?_, by decide +kernel, ?_,
    by decide +kernel, by decide +kernel, by decide +kernel⟩
  · intro c hc
    cases hc
  · intro c hc
    cases hc
    decide
theorem witness_DictionarySequencesStayDistinct_state :
    (65 : Code).toNat < midEncode.enext ∧ (257 : Code).toNat < midEncode.enext ∧
    (257 : Code).toNat < 256 + midDecode.ddict.length ∧ [66] <+: codeString midDecode.ddict 257 := by
  decide +kernel

/-- A dictionary with no entry keeps R53 (a): its codes stand for their own bytes. -/
theorem sequencesDistinct_nil : SequencesDistinct [] := by
  intro j k hj hk hne he
  rw [codeString_byte _ (by simpa using hj), codeString_byte _ (by simpa using hk)] at he
  simp only [List.cons.injEq, and_true] at he
  have := congrArg BitVec.toNat he
  simp only [List.length_nil, BitVec.toNat_setWidth] at this hj hk
  exact hne (BitVec.eq_of_toNat_eq (by omega))
/-- What R236 says in words of the codes 65, 65, 65, that codes 256 and 257 both stand for `dstr(65) ++ [65]`, is not
R53 (a), in whatever form a dictionary has these two codes: no model meets both rules there (log entry 10). -/
theorem R236_contradicts_R53 (d : List DictEntry) (n : 2 ≤ d.length) (h1 : codeString d 256 = [65, 65])
    (h2 : codeString d 257 = [65, 65]) : ¬ SequencesDistinct d := fun h =>
  h 256 257 (by show 256 < _; omega) (by show 257 < _; omega) (by decide) (h1.trans h2.symm)
/-- The dictionary LZW.DEC of the codes 65, 65, 65 leaves is one of these. -/
theorem test_lzwDec_R236_sequences :
    ¬ SequencesDistinct (after (exec .lzwDec (withCodes State.reset [65, 65, 65]))).ddict :=
  R236_contradicts_R53 _ (by decide +kernel) (by decide +kernel) (by decide +kernel)
theorem witness_DictionarySequencesStayDistinct_commands :
    SequencesDistinct State.reset.ddict ∧ Instr.lzwDinit ≠ .lzwDec ∧ ∀ k, Instr.lzwDinit ≠ .lzwDcode k :=
  ⟨sequencesDistinct_nil, by decide, fun _ h => nomatch h⟩
/-- A decoder session after its first code. -/
def afterFirst : State := { State.reset with dprev := some 65, dActive := true, obuf := [65] }
theorem afterFirst_lzwOk : LzwOk afterFirst := by
  refine ⟨by decide +kernel, by decide +kernel, by decide +kernel, by decide +kernel, ?_, by decide +kernel, ?_,
    by decide +kernel, by decide +kernel, by decide +kernel⟩
  · intro c hc
    cases hc
  · intro c hc
    cases hc
    decide
theorem witness_DictionarySequencesStayDistinct_dcode :
    LzwOk afterFirst ∧ SequencesDistinct afterFirst.ddict ∧
    (after (exec (.lzwDcode 65) afterFirst)).ddict = afterFirst.ddict ++ [⟨65, 65⟩] :=
  ⟨afterFirst_lzwOk, sequencesDistinct_nil, by decide +kernel⟩
theorem witness_DictionarySequencesStayDistinct_dec :
    LzwOk (withCodes afterFirst [65, 66, 256]) ∧ SequencesDistinct (withCodes afterFirst [65, 66, 256]).ddict ∧
    (withCodes afterFirst [65, 66, 256]).inputCodes.map BitVec.toNat <+:
      textbookEncode (withCodes afterFirst [65, 66, 256]).lzwCap.toNat [] [] [65, 66, 65, 66, 65, 66, 65] :=
  ⟨afterFirst_lzwOk, sequencesDistinct_nil, by decide +kernel⟩

end Sys2Proof.Tests
end

/-! PROOF. What no command's own rule reads or writes: the outcome record (`10_state.md` R23 to R25), the command
counter (R27) and the port. From it follow the recording of outcomes and the counting of commands. -/

section
namespace Sys2Proof.Machine

/-! ### One step by the host's next input -/

theorem step_idle {s : State} (h : s.inputs = []) : step s = .next s := by
  simp [step, fetch, h]

theorem step_takeResponse {s : State} {rest : List HostInput} (h : s.inputs = .takeResponse :: rest) :
    step s = .next (s.accepted rest) := by
  simp only [step, fetch, h]
  rfl

theorem step_decoded {s : State} {w : Word64} {rest : List HostInput} {i : Instr}
    (h : s.inputs = .command w :: rest) (hd : decode w = .ok i) : step s = exec i (s.accepted rest) := by
  simp only [step, fetch, h, hd]
  rfl

theorem step_malformed {s : State} {w : Word64} {rest : List HostInput} {e : DecodeError}
    (h : s.inputs = .command w :: rest) (hd : decode w = .error e) :
    step s = .next ((s.accepted rest).refuse (malformedCode e)) := by
  simp only [step, fetch, h, hd]
  rfl

/-! ### The record -/

/-- `s` with the outcome record, the command counter and the port of `u`. -/
def State.withRecordOf (s u : State) : State :=
  { s with faulted := u.faulted, errcode := u.errcode, errinfo := u.errinfo, cmdcnt := u.cmdcnt,
           inputs := u.inputs, rsp := u.rsp, responses := u.responses }

/-- The result with the record of `u` in the state it leaves. -/
def CmdResult.withRecordOf (u : State) : CmdResult → CmdResult
  | .success t data => .success (t.withRecordOf u) data
  | .reject code => .reject code
  | .fault t code info => .fault (t.withRecordOf u) code info

/-- A command's rule neither reads nor writes the record. -/
def IgnoresRecord (rule : State → CmdResult) : Prop :=
  ∀ s u : State, rule (s.withRecordOf u) = (rule s).withRecordOf u

@[simp] theorem withRecordOf_success (u t : State) (d : Word32) :
    (CmdResult.success t d).withRecordOf u = .success (t.withRecordOf u) d := rfl

@[simp] theorem withRecordOf_reject (u : State) (c : RejectCode) :
    (CmdResult.reject c).withRecordOf u = .reject c := rfl

@[simp] theorem withRecordOf_fault (u t : State) (c : FaultCode) (info : Word32) :
    (CmdResult.fault t c info).withRecordOf u = .fault (t.withRecordOf u) c info := rfl

@[simp] theorem withRecordOf_ite (u : State) (p : Prop) [Decidable p] (a b : CmdResult) :
    (if p then a else b).withRecordOf u = if p then a.withRecordOf u else b.withRecordOf u :=
  apply_ite (CmdResult.withRecordOf u) p a b

/-! ### The state operations ignore the record -/

theorem clearTable_withRecordOf (s u : State) : (s.withRecordOf u).clearTable = s.clearTable.withRecordOf u := rfl

theorem addLeaf_withRecordOf (s u : State) (sym : Byte) (weight : Weight) :
    (s.withRecordOf u).addLeaf sym weight = (s.addLeaf sym weight).withRecordOf u := rfl

theorem assignHuffman_withRecordOf (s u : State) :
    (s.withRecordOf u).assignHuffman = s.assignHuffman.withRecordOf u := rfl

theorem mergeOnce_withRecordOf (s u : State) : (s.withRecordOf u).mergeOnce = s.mergeOnce.withRecordOf u := by
  have hheap : (s.withRecordOf u).heap = s.heap := rfl
  simp only [State.mergeOnce, hheap]
  split
  · rfl
  · split <;> rfl

theorem mergeAll_withRecordOf (fuel : Nat) (s u : State) :
    State.mergeAll fuel (s.withRecordOf u) = (State.mergeAll fuel s).withRecordOf u := by
  induction fuel generalizing s with
  | zero => rfl
  | succ fuel ih =>
    have hheap : (s.withRecordOf u).heap = s.heap := rfl
    simp only [State.mergeAll, hheap]
    split
    · rw [mergeOnce_withRecordOf, ih]
    · rfl

theorem encodeByte_withRecordOf (s u : State) (c : Byte) :
    (s.withRecordOf u).encodeByte c = (s.encodeByte c).withRecordOf u := by
  have hew : (s.withRecordOf u).ew = s.ew := rfl
  have hedict : (s.withRecordOf u).edict = s.edict := rfl
  simp only [State.encodeByte, hew, hedict]
  split
  · rfl
  · split <;> rfl

theorem encoderFlush_withRecordOf (s u : State) :
    (s.withRecordOf u).encoderFlush = s.encoderFlush.withRecordOf u := by
  have hew : (s.withRecordOf u).ew = s.ew := rfl
  simp only [State.encoderFlush, hew]
  split <;> rfl

theorem encoderInit_withRecordOf (s u : State) : (s.withRecordOf u).encoderInit = s.encoderInit.withRecordOf u := rfl

/-- A repeated operation ignores the record when one turn of it does. -/
theorem foldl_withRecordOf {α : Type} {f : State → α → State}
    (hf : ∀ (s u : State) (a : α), f (s.withRecordOf u) a = (f s a).withRecordOf u) (l : List α) (s u : State) :
    l.foldl f (s.withRecordOf u) = (l.foldl f s).withRecordOf u := by
  induction l generalizing s with
  | nil => rfl
  | cons a l ih => rw [List.foldl_cons, hf, ih, List.foldl_cons]

/-! ### The rules ignore the record -/

theorem bssClr_ignoresRecord : IgnoresRecord fun s => .success { s with bits := [] } 0 := fun _ _ => rfl

theorem appendBits_ignoresRecord (add : List Bool) : IgnoresRecord (appendBits add) := by
  intro s u
  simp only [appendBits, withRecordOf_ite]
  rfl

theorem bssAppendRule_ignoresRecord (n : BitVec 6) (bits : Word32) : IgnoresRecord (bssAppendRule n bits) := by
  intro s u
  simp only [bssAppendRule, withRecordOf_ite, withRecordOf_reject, appendBits_ignoresRecord _ s u]

theorem bssAppsymRule_ignoresRecord (sym : Byte) : IgnoresRecord (bssAppsymRule sym) := by
  intro s u
  have hcb : (s.withRecordOf u).cb = s.cb := rfl
  simp only [bssAppsymRule, hcb]
  split
  · rfl
  · exact appendBits_ignoresRecord _ s u

theorem bssEnc_ignoresRecord : IgnoresRecord fun s => appendBits (encodeBytes s.cb s.inputBytes) s :=
  fun s u => appendBits_ignoresRecord _ s u

/-- Storing the output of a walk ignores the record. -/
theorem storeDecoded_withRecordOf (s u : State) (e : DecodeEnd) :
    storeDecoded (s.withRecordOf u) e = (storeDecoded s e).withRecordOf u := by
  cases e <;> rfl

theorem bssDec_ignoresRecord :
    IgnoresRecord fun s => storeDecoded s (bssDecLoop s.cb s.cfg.obufBytes s.bits 0 [] 0 []) :=
  fun s u => storeDecoded_withRecordOf s u _

theorem bssPackRule_ignoresRecord (hdr : Bool) : IgnoresRecord (bssPackRule hdr) := by
  intro s u
  simp only [bssPackRule, withRecordOf_ite]
  rfl

theorem unpackBits_ignoresRecord (n off : Nat) : IgnoresRecord (unpackBits n off) := by
  intro s u
  simp only [unpackBits, withRecordOf_ite]
  rfl

theorem bssUnpackRule_ignoresRecord (hdr : Bool) (nbits : Word32) : IgnoresRecord (bssUnpackRule hdr nbits) := by
  intro s u
  have hilen : (s.withRecordOf u).ilen = s.ilen := rfl
  have hin : (s.withRecordOf u).inputBytes = s.inputBytes := rfl
  simp only [bssUnpackRule, withRecordOf_ite, withRecordOf_reject, unpackBits_ignoresRecord _ _ s u, hilen, hin]

theorem htbClr_ignoresRecord : IgnoresRecord fun s => .success s.clearTable 0 := fun _ _ => rfl

theorem htbLoadRule_ignoresRecord (sym : Byte) (weight : Word32) : IgnoresRecord (htbLoadRule sym weight) := by
  intro s u
  simp only [htbLoadRule, withRecordOf_ite]
  rfl

theorem htbCountRule_ignoresRecord (order : Bool) : IgnoresRecord (htbCountRule order) := by
  intro s u
  have hin : (s.withRecordOf u).inputBytes = s.inputBytes := rfl
  simp only [htbCountRule, hin, clearTable_withRecordOf]
  rw [foldl_withRecordOf fun s u sym => addLeaf_withRecordOf s u sym _]
  rfl

theorem htbStepRule_ignoresRecord : IgnoresRecord htbStepRule := by
  intro s u
  simp only [htbStepRule, withRecordOf_ite, mergeOnce_withRecordOf]
  rfl

theorem htbAssignRule_ignoresRecord : IgnoresRecord htbAssignRule := by
  intro s u
  simp only [htbAssignRule, withRecordOf_ite]
  rfl

theorem htbBuildRule_ignoresRecord : IgnoresRecord htbBuildRule := by
  intro s u
  simp only [htbBuildRule, withRecordOf_ite, mergeAll_withRecordOf, assignHuffman_withRecordOf]
  rfl

theorem fwAssignRule_ignoresRecord : IgnoresRecord fwAssignRule := by
  intro s u
  simp only [fwAssignRule, withRecordOf_ite]
  rfl

theorem fwEncRule_ignoresRecord : IgnoresRecord fwEncRule := by
  intro s u
  simp only [fwEncRule, withRecordOf_ite]
  rfl

theorem fwDecRule_ignoresRecord : IgnoresRecord fwDecRule := by
  intro s u
  simp only [fwDecRule, withRecordOf_ite, storeDecoded_withRecordOf]
  rfl

theorem lzwEinit_ignoresRecord : IgnoresRecord fun s => .success s.encoderInit 0 := fun _ _ => rfl

theorem lzwEbyteRule_ignoresRecord (c : Byte) : IgnoresRecord (lzwEbyteRule c) := by
  intro s u
  have hmust : (s.withRecordOf u).mustEmit c = s.mustEmit c := rfl
  simp only [lzwEbyteRule, hmust, encodeByte_withRecordOf, withRecordOf_ite]
  cases s.mustEmit c with
  | none => rfl
  | some e =>
    simp only [withRecordOf_ite]
    rfl

theorem lzwEflushRule_ignoresRecord : IgnoresRecord lzwEflushRule := by
  intro s u
  have hew : (s.withRecordOf u).ew = s.ew := rfl
  simp only [lzwEflushRule, hew, encoderFlush_withRecordOf, withRecordOf_ite]
  cases s.ew with
  | none => rfl
  | some e =>
    simp only [withRecordOf_ite]
    rfl

theorem lzwEncRule_ignoresRecord : IgnoresRecord lzwEncRule := by
  intro s u
  have hin : (s.withRecordOf u).inputBytes = s.inputBytes := rfl
  simp only [lzwEncRule, hin, encoderInit_withRecordOf, foldl_withRecordOf encodeByte_withRecordOf,
    encoderFlush_withRecordOf]
  rfl

theorem lzwDinit_ignoresRecord : IgnoresRecord fun s => .success s.decoderInit 0 := fun _ _ => rfl

/-- Emitting an entry ignores the record. -/
theorem emitEntry_withRecordOf (s u : State) (entry : List Byte) (d : List DictEntry) (k : Code) :
    emitEntry (s.withRecordOf u) entry d k = (emitEntry s entry d k).withRecordOf u := by
  simp only [emitEntry, withRecordOf_ite]
  rfl

theorem decodeCode_ignoresRecord (k : Code) : IgnoresRecord (decodeCode k) := by
  intro s u
  have hprev : (s.withRecordOf u).dprev = s.dprev := rfl
  have hentry : ∀ p, (s.withRecordOf u).decoderEntry p k = s.decoderEntry p k := fun _ => rfl
  simp only [decodeCode, hprev, hentry, emitEntry_withRecordOf]
  cases s.dprev with
  | none =>
    simp only [withRecordOf_ite]
    rfl
  | some p =>
    dsimp only
    cases s.decoderEntry p k <;> rfl

theorem lzwDcodeRule_ignoresRecord (k : Code) : IgnoresRecord (lzwDcodeRule k) := by
  intro s u
  simp only [lzwDcodeRule, withRecordOf_ite, decodeCode_ignoresRecord k s u]
  rfl

theorem decodeCodes_ignoresRecord (ks : List Code) (j : Nat) : IgnoresRecord (decodeCodes ks j) := by
  induction ks generalizing j with
  | nil => exact fun _ _ => rfl
  | cons k ks ih =>
    intro s u
    simp only [decodeCodes, decodeCode_ignoresRecord k s u]
    cases decodeCode k s with
    | success t d => exact ih (j + 1) t u
    | reject code => rfl
    | fault t code info => rfl

theorem lzwDec_ignoresRecord : IgnoresRecord fun s => decodeCodes s.inputCodes 0 s.decoderInit :=
  fun s u => decodeCodes_ignoresRecord _ 0 s.decoderInit u

/-- A register write ignores the record. -/
theorem csrWrite_withRecordOf (s u : State) (r : Csr) (v : Word32) :
    csrWrite (s.withRecordOf u) r v = (csrWrite s r v).map (State.withRecordOf · u) := by
  cases r
  case ilen | clen | lzwCap =>
    simp only [csrWrite, apply_ite (Except.map (State.withRecordOf · u))]
    rfl
  all_goals rfl

/-- A write of a codebook word ignores the record. -/
theorem cbWindowWrite_withRecordOf (s u : State) (sym : Byte) (f : Nat) (v : Word32) :
    cbWindowWrite (s.withRecordOf u) sym f v = (cbWindowWrite s sym f v).map (State.withRecordOf · u) := by
  have hcb : (s.withRecordOf u).cb = s.cb := rfl
  simp only [cbWindowWrite, hcb]
  cases cbEntryWrite (cbEntry s.cb sym) f v <;> rfl

/-- A write through a window ignores the record. -/
theorem memWrite_withRecordOf (s u : State) (sp : Space) (addr : BitVec 20) (v : Word32) :
    memWrite (s.withRecordOf u) sp addr v = (memWrite s sp addr v).map (State.withRecordOf · u) := by
  cases sp
  case csr =>
    simp only [memWrite]
    cases Csr.ofNum addr.toNat with
    | none => rfl
    | some r => exact csrWrite_withRecordOf s u r v
  case cb =>
    simp only [memWrite]
    cases cbAddress addr with
    | none => rfl
    | some p => exact cbWindowWrite_withRecordOf s u p.1 p.2 v
  case ibuf | cbuf =>
    simp only [memWrite, apply_ite (Except.map (State.withRecordOf · u))]
    rfl
  all_goals rfl

theorem wrRule_ignoresRecord (space : BitVec 4) (addr : BitVec 20) (data : Word32) :
    IgnoresRecord (wrRule space addr data) := by
  intro s u
  simp only [wrRule, memWrite_withRecordOf]
  cases Space.ofNum space with
  | none => rfl
  | some sp =>
    dsimp only
    cases memWrite s sp addr data <;> rfl

/-- A command behind the fault gate is a rule that ignores the record. -/
theorem exec_of_gated {i : Instr} (h : gated i = true) :
    ∃ rule, IgnoresRecord rule ∧ ∀ s, exec i s = runGated rule s :=
  match i, h with
  | .wr space addr data, _ => ⟨_, wrRule_ignoresRecord space addr data, fun _ => rfl⟩
  | .bssClr, _ => ⟨_, bssClr_ignoresRecord, fun _ => rfl⟩
  | .bssAppend n bits, _ => ⟨_, bssAppendRule_ignoresRecord n bits, fun _ => rfl⟩
  | .bssAppsym sym, _ => ⟨_, bssAppsymRule_ignoresRecord sym, fun _ => rfl⟩
  | .bssEnc, _ => ⟨_, bssEnc_ignoresRecord, fun _ => rfl⟩
  | .bssDec, _ => ⟨_, bssDec_ignoresRecord, fun _ => rfl⟩
  | .bssPack hdr, _ => ⟨_, bssPackRule_ignoresRecord hdr, fun _ => rfl⟩
  | .bssUnpack hdr nbits, _ => ⟨_, bssUnpackRule_ignoresRecord hdr nbits, fun _ => rfl⟩
  | .htbClr, _ => ⟨_, htbClr_ignoresRecord, fun _ => rfl⟩
  | .htbLoad sym weight, _ => ⟨_, htbLoadRule_ignoresRecord sym weight, fun _ => rfl⟩
  | .htbCount order, _ => ⟨_, htbCountRule_ignoresRecord order, fun _ => rfl⟩
  | .htbStep, _ => ⟨_, htbStepRule_ignoresRecord, fun _ => rfl⟩
  | .htbAssign, _ => ⟨_, htbAssignRule_ignoresRecord, fun _ => rfl⟩
  | .htbBuild, _ => ⟨_, htbBuildRule_ignoresRecord, fun _ => rfl⟩
  | .lzwEinit, _ => ⟨_, lzwEinit_ignoresRecord, fun _ => rfl⟩
  | .lzwEbyte c, _ => ⟨_, lzwEbyteRule_ignoresRecord c, fun _ => rfl⟩
  | .lzwEflush, _ => ⟨_, lzwEflushRule_ignoresRecord, fun _ => rfl⟩
  | .lzwEnc, _ => ⟨_, lzwEncRule_ignoresRecord, fun _ => rfl⟩
  | .lzwDinit, _ => ⟨_, lzwDinit_ignoresRecord, fun _ => rfl⟩
  | .lzwDcode k, _ => ⟨_, lzwDcodeRule_ignoresRecord k, fun _ => rfl⟩
  | .lzwDec, _ => ⟨_, lzwDec_ignoresRecord, fun _ => rfl⟩
  | .fwAssign, _ => ⟨_, fwAssignRule_ignoresRecord, fun _ => rfl⟩
  | .fwEnc, _ => ⟨_, fwEncRule_ignoresRecord, fun _ => rfl⟩
  | .fwDec, _ => ⟨_, fwDecRule_ignoresRecord, fun _ => rfl⟩

/-- A result that leaves the record of `s`, and is a fault only when FAULT was 0 (`60_exceptions.md` R276). -/
inductive CmdResult.LeavesRecord (s : State) : CmdResult → Prop
  | success {t : State} (data : Word32) (ht : t.withRecordOf s = t) : LeavesRecord s (.success t data)
  | reject (code : RejectCode) : LeavesRecord s (.reject code)
  | fault {t : State} (code : FaultCode) (info : Word32) (hs : s.faulted = false) (ht : t.withRecordOf s = t) :
      LeavesRecord s (.fault t code info)

/-- A rule that ignores the record leaves the record it started with. -/
theorem IgnoresRecord.leavesRecord {rule : State → CmdResult} (h : IgnoresRecord rule) {s : State}
    (hs : s.faulted = false) : (rule s).LeavesRecord s := by
  have hself : (rule s).withRecordOf s = rule s := (h s s).symm
  cases hr : rule s with
  | success t data =>
    rw [hr, withRecordOf_success] at hself
    exact .success data (CmdResult.success.inj hself).1
  | reject code => exact .reject code
  | fault t code info =>
    rw [hr, withRecordOf_fault] at hself
    exact .fault code info hs (CmdResult.fault.inj hself).1

/-- The two shapes the rule of RD can end in. -/
theorem rdRule_cases (space : BitVec 4) (addr : BitVec 20) (s : State) :
    rdRule space addr s = .reject .addr ∨ ∃ v, rdRule space addr s = .success s v := by
  unfold rdRule
  split
  · exact .inl rfl
  · exact .inr ⟨_, rfl⟩

/-! ### Reads and the command counter -/

/-- `s` with another value of CMDCNT. -/
def State.withCmdcnt (s : State) (n : Word32) : State := { s with cmdcnt := n }

/-- Only number 4 names CMDCNT (`10_state.md` R54). -/
theorem csr_ofNum_cmdcnt {a : Nat} (h : Csr.ofNum a = some .cmdcnt) : a = 4 := by
  unfold Csr.ofNum at h
  split at h <;> simp_all

/-- Only number 0 names the registers' space (`20_memory.md` R70). -/
theorem space_ofNum_csr {n : BitVec 4} (h : Space.ofNum n = some .csr) : n = 0 := by
  revert n
  decide

theorem csrRead_withCmdcnt (s : State) (n : Word32) {r : Csr} (h : r ≠ .cmdcnt) :
    csrRead (s.withCmdcnt n) r = csrRead s r := by
  cases r
  case cmdcnt => exact absurd rfl h
  all_goals rfl

/-- No read but that of CMDCNT depends on it. -/
theorem memRead_withCmdcnt (s : State) (n : Word32) {sp : Space} {addr : BitVec 20} (h : sp = .csr → addr ≠ 4) :
    memRead (s.withCmdcnt n) sp addr = memRead s sp addr := by
  cases sp
  case csr =>
    refine Option.map_congr fun r hr => csrRead_withCmdcnt s n fun hc => h rfl ?_
    exact BitVec.eq_of_toNat_eq (csr_ofNum_cmdcnt (hc ▸ hr))
  all_goals rfl

theorem rdRule_withCmdcnt (s : State) (n : Word32) {space : BitVec 4} {addr : BitVec 20}
    (h : Instr.rd space addr ≠ .rd 0 4) :
    rdRule space addr (s.withCmdcnt n) = (rdRule space addr s).withRecordOf (s.withCmdcnt n) := by
  have hread : ((Space.ofNum space).bind fun sp => memRead (s.withCmdcnt n) sp addr) =
      (Space.ofNum space).bind fun sp => memRead s sp addr := by
    refine Option.bind_congr fun sp hsp => memRead_withCmdcnt s n fun hcsr haddr => h ?_
    have hspace : space = 0 := space_ofNum_csr (hcsr ▸ hsp)
    rw [haddr, hspace]
  simp only [rdRule, hread]
  cases (Space.ofNum space).bind fun sp => memRead s sp addr <;> rfl

/-! ### How every command ends -/

/-- Every command but RESET ends in the recording of its rule's result, which leaves the record alone; and but for
RD of CMDCNT the result does not depend on CMDCNT. -/
theorem exec_finish {i : Instr} (hi : i ≠ .reset) :
    ∃ rule : State → CmdResult,
      (∀ s, exec i s = .next (finish s (rule s)) ∧ (rule s).LeavesRecord s) ∧
      (i ≠ .rd 0 4 → ∀ s n, rule (s.withCmdcnt n) = (rule s).withRecordOf (s.withCmdcnt n)) := by
  cases hg : gated i with
  | true =>
    obtain ⟨rule, hrule, hexec⟩ := exec_of_gated hg
    refine ⟨fun s => if s.faulted then .reject .faulted else rule s, fun s => ⟨hexec s, ?_⟩, fun _ s n => ?_⟩
    · dsimp only
      split
      next => exact .reject _
      next hf => exact hrule.leavesRecord (Bool.eq_false_of_not_eq_true hf)
    · rw [withRecordOf_ite, ← hrule]
      rfl
  | false =>
    match i, hg with
    | .nop, _ => exact ⟨fun s => .success s 0, fun _ => ⟨rfl, .success 0 rfl⟩, fun _ _ _ => rfl⟩
    | .reset, _ => exact absurd rfl hi
    | .rd space addr, _ =>
      refine ⟨rdRule space addr, fun s => ⟨rfl, ?_⟩, fun h s n => rdRule_withCmdcnt s n h⟩
      obtain h | ⟨v, h⟩ := rdRule_cases space addr s
      · exact h ▸ .reject _
      · exact h ▸ .success v rfl

/-- A step with a command word that is no RESET, malformed ones too, ends the same way. -/
theorem step_finish {s : State} {w : Word64} {rest : List HostInput} (h : s.inputs = .command w :: rest)
    (hw : decode w ≠ .ok .reset) :
    ∃ r : CmdResult, step s = .next (finish (s.accepted rest) r) ∧ r.LeavesRecord (s.accepted rest) := by
  cases hd : decode w with
  | ok i =>
    obtain ⟨rule, hrule, -⟩ := exec_finish fun hi => hw (hi ▸ hd)
    exact ⟨_, by rw [step_decoded h hd, (hrule _).1], (hrule _).2⟩
  | error e => exact ⟨.reject (malformedCode e), step_malformed h hd, .reject _⟩

/-- A step with no command word next, and no reset, changes no field of the outcome record. -/
theorem step_no_command {s t : State} (hc : ∀ w rest, s.inputs ≠ .command w :: rest) (hr : ¬ ResetNext s)
    (h : step s = .next t) :
    t.faulted = s.faulted ∧ t.errcode = s.errcode ∧ t.errinfo = s.errinfo ∧ t.cmdcnt = s.cmdcnt := by
  match hin : s.inputs with
  | [] =>
    obtain rfl := Host.Outcome.next.inj ((step_idle hin).symm.trans h)
    exact ⟨rfl, rfl, rfl, rfl⟩
  | .takeResponse :: rest =>
    obtain rfl := Host.Outcome.next.inj ((step_takeResponse hin).symm.trans h)
    exact ⟨rfl, rfl, rfl, rfl⟩
  | .assertReset :: rest => exact absurd (by simp [ResetNext, hin]) hr
  | .command w :: rest => exact absurd hin (hc w rest)

/-! ### The error registers (`10_state.md` R24, R25) -/

@[simp] theorem answer_err (s : State) (e : BitVec 8) (d : Word32) : (s.answer e d).err = some e :=
  congrArg some (Laws.OpField.opField_wordOf e 0 d)

@[simp] theorem answer_data (s : State) (e : BitVec 8) (d : Word32) : (s.answer e d).data = some d :=
  congrArg some BitVec.extractLsb'_append_eq_right

/-- The code of a REJECT is 0x01 to 0x0A (`60_exceptions.md` R271). -/
theorem rejectCode_byte_range (c : RejectCode) : 0x01 ≤ c.byte.toNat ∧ c.byte.toNat ≤ 0x0A := by
  cases c <;> decide

/-- The code of a FAULT is 0x80 to 0x82 (`60_exceptions.md` R271). -/
theorem faultCode_byte_range (c : FaultCode) : 0x80 ≤ c.byte.toNat ∧ c.byte.toNat ≤ 0x82 := by
  cases c <;> decide

/-- A state that keeps the record has its four registers. -/
theorem registers_of_withRecordOf {s t : State} (h : t.withRecordOf s = t) :
    t.faulted = s.faulted ∧ t.errcode = s.errcode ∧ t.errinfo = s.errinfo ∧ t.cmdcnt = s.cmdcnt := by
  rw [← h]
  exact ⟨rfl, rfl, rfl, rfl⟩

/-- While FAULT is 1 the recording of a result is frozen. -/
theorem finish_frozen {s : State} {r : CmdResult} (hr : r.LeavesRecord s) (hs : s.faulted = true) :
    (finish s r).errcode = s.errcode ∧ (finish s r).errinfo = s.errinfo := by
  cases hr with
  | success data ht =>
    obtain ⟨-, hcode, hinfo, -⟩ := registers_of_withRecordOf ht
    exact ⟨hcode, hinfo⟩
  | reject code => simp [recordReject_of_faulted code hs]
  | fault code info hf => simp [hs] at hf

/-- While FAULT is 0 a success leaves the error registers, a refusal writes its code and 0, and a fault its code and
the DATA of its response. -/
theorem finish_records {s : State} {r : CmdResult} (hr : r.LeavesRecord s) (hs : s.faulted = false) :
    ((finish s r).err = some 0 ∧ (finish s r).errcode = s.errcode ∧ (finish s r).errinfo = s.errinfo ∧
      (finish s r).faulted = false) ∨
    ((finish s r).err = some (finish s r).errcode ∧ 0x01 ≤ (finish s r).errcode.toNat ∧
      (finish s r).errcode.toNat ≤ 0x0A ∧ (finish s r).errinfo = 0 ∧ (finish s r).data = some 0 ∧
      (finish s r).faulted = false) ∨
    ((finish s r).err = some (finish s r).errcode ∧ 0x80 ≤ (finish s r).errcode.toNat ∧
      (finish s r).errcode.toNat ≤ 0x82 ∧ (finish s r).data = some (finish s r).errinfo ∧
      (finish s r).faulted = true) := by
  cases hr with
  | success data ht =>
    obtain ⟨hfault, hcode, hinfo, -⟩ := registers_of_withRecordOf ht
    exact .inl ⟨answer_err _ _ _, hcode, hinfo, hfault.trans hs⟩
  | reject code =>
    refine .inr (.inl ?_)
    simp [recordReject_of_unfaulted code hs, rejectCode_byte_range code, hs]
  | fault code info =>
    refine .inr (.inr ?_)
    simp [faultCode_byte_range code]

/-- A command word that is no RESET is next. -/
theorem decode_ne_reset {s : State} {w : Word64} {rest : List HostInput} (h : s.inputs = .command w :: rest)
    (hr : ¬ ResetNext s) : decode w ≠ .ok .reset := by
  simpa [ResetNext, h] using hr

/-- Settles O11: a step without a command word changes no error register, and one with a command word ends in the
recording of a result that left the record alone. -/
theorem errorRegistersFollowOutcomes : Obligations.ErrorRegistersFollowOutcomes := by
  intro s t hstep hr
  refine ⟨fun hf => ?_, fun hc => ?_, fun w rest hin hf => ?_⟩
  · by_cases hc : ∀ w rest, s.inputs ≠ .command w :: rest
    · obtain ⟨-, hcode, hinfo, -⟩ := step_no_command hc hr hstep
      exact ⟨hcode, hinfo⟩
    · push Not at hc
      obtain ⟨w, rest, hin⟩ := hc
      obtain ⟨r, hfin, hrec⟩ := step_finish hin (decode_ne_reset hin hr)
      obtain rfl := Host.Outcome.next.inj (hfin.symm.trans hstep)
      exact finish_frozen hrec hf
  · obtain ⟨hfault, hcode, hinfo, -⟩ := step_no_command hc hr hstep
    exact ⟨hcode, hinfo, hfault⟩
  · obtain ⟨r, hfin, hrec⟩ := step_finish hin (decode_ne_reset hin hr)
    obtain rfl := Host.Outcome.next.inj (hfin.symm.trans hstep)
    exact finish_records hrec hf

/-! ### The command counter (`10_state.md` R27) -/

/-- The recording of a result counts the command. -/
theorem finish_cmdcnt {s : State} {r : CmdResult} (hr : r.LeavesRecord s) :
    (finish s r).cmdcnt = s.cmdcnt + 1 := by
  cases hr with
  | success data ht =>
    obtain ⟨-, -, -, hcnt⟩ := registers_of_withRecordOf ht
    simp [hcnt]
  | reject code => simp
  | fault code info _ ht =>
    obtain ⟨-, -, -, hcnt⟩ := registers_of_withRecordOf ht
    simp [hcnt]

/-- The counter before a command shows in the state after it only as the counter. -/
theorem finish_withCmdcnt {s : State} {r : CmdResult} (hr : r.LeavesRecord s) (n : Word32) :
    finish (s.withCmdcnt n) (r.withRecordOf (s.withCmdcnt n)) = (finish s r).withCmdcnt (n + 1) := by
  cases hr with
  | success data ht =>
    rw [← ht]
    rfl
  | reject code =>
    have hfault : (s.withCmdcnt n).faulted = s.faulted := rfl
    simp only [withRecordOf_reject, finish_reject, State.recordReject, hfault]
    split <;> rfl
  | fault code info _ ht =>
    rw [← ht]
    rfl

/-- Settles O12: the recording of a result counts the command, and of CMDCNT a rule other than RD of it sees
nothing. -/
theorem commandCounterCountsAndNothingElse : Obligations.CommandCounterCountsAndNothingElse := by
  refine ⟨fun s t w rest hin hstep => ⟨fun hw => ?_, fun hw => ?_⟩, fun s t hc hr hstep => ?_, fun _ => rfl,
    fun i s t n hi hexec => ?_⟩
  · obtain rfl := Host.Outcome.next.inj ((step_decoded hin hw).symm.trans hstep)
    rfl
  · obtain ⟨r, hfin, hrec⟩ := step_finish hin hw
    obtain rfl := Host.Outcome.next.inj (hfin.symm.trans hstep)
    exact finish_cmdcnt hrec
  · obtain ⟨-, -, -, hcnt⟩ := step_no_command hc hr hstep
    exact hcnt
  · by_cases hreset : i = .reset
    · subst hreset
      exact ⟨t.cmdcnt, hexec⟩
    · obtain ⟨rule, hrule, hcnt⟩ := exec_finish hreset
      obtain rfl := Host.Outcome.next.inj ((hrule s).1.symm.trans hexec)
      refine ⟨n + 1, (hrule (s.withCmdcnt n)).1.trans ?_⟩
      rw [hcnt hi, finish_withCmdcnt (hrule s).2]
      rfl

end Sys2Proof.Machine
end

/-! PROOF. What the codes of a dictionary stand for (`10_state.md` R52). -/

section
namespace Sys2Proof.Machine

/-- A stored entry extends a smaller code (`10_state.md` R48, R49). -/
theorem prefixCode_lt {d : List DictEntry} (hd : DictOk d) {j : Nat} {e : DictEntry} (h : d[j]? = some e) :
    e.prefixCode.toNat < 256 + j :=
  hd.2 (e, j) (List.mk_mem_zipIdx_iff_getElem?.2 h)

/-- One turn for a stored code: the string of the code it extends, and its byte. -/
theorem dictString_stored {d : List DictEntry} {k : Code} (hk : 256 ≤ k.toNat) {e : DictEntry}
    (h : d[k.toNat - 256]? = some e) (fuel : Nat) :
    dictString d (fuel + 1) k = dictString d fuel e.prefixCode ++ [e.byte] := by
  simp [dictString, Nat.not_lt.2 hk, h]

/-- Each turn goes to a smaller code, so `f + 1` turns are enough for a code below `256 + f`. -/
theorem dictString_fuel {d : List DictEntry} (hd : DictOk d) {f g : Nat} (hfg : f ≤ g) {k : Code}
    (hk : k.toNat < 256 + f) : dictString d (g + 1) k = dictString d (f + 1) k := by
  induction f generalizing g k with
  | zero => simp [dictString, show k.toNat < 256 from hk]
  | succ f ih =>
    obtain ⟨g, rfl⟩ := Nat.exists_eq_add_of_le' (Nat.one_le_of_lt hfg)
    by_cases hbyte : k.toNat < 256
    · simp [dictString, hbyte]
    · have hstored := Nat.not_lt.1 hbyte
      cases he : d[k.toNat - 256]? with
      | none => simp [dictString, hbyte, he]
      | some e =>
        have hsmaller := prefixCode_lt hd he
        rw [dictString_stored hstored he, dictString_stored hstored he, ih (by omega) (by omega)]

/-- The code of entry number `j`. -/
theorem toNat_entryCode {d : List DictEntry} (hd : DictOk d) {j : Nat} {e : DictEntry} (h : d[j]? = some e) :
    (BitVec.ofNat 16 (256 + j)).toNat = 256 + j := by
  have hj := (List.getElem?_eq_some_iff.1 h).1
  have hlen := hd.1
  rw [BitVec.toNat_ofNat]
  omega

/-- A stored code stands for the string of the code it extends, and its byte. -/
theorem codeString_entry {d : List DictEntry} (hd : DictOk d) {j : Nat} {e : DictEntry} (h : d[j]? = some e) :
    codeString d (BitVec.ofNat 16 (256 + j)) = codeString d e.prefixCode ++ [e.byte] := by
  have hcode := toNat_entryCode hd h
  have hj := (List.getElem?_eq_some_iff.1 h).1
  have hsmaller := prefixCode_lt hd h
  obtain ⟨n, hn⟩ := Nat.exists_eq_add_of_le' (Nat.one_le_of_lt hj)
  unfold codeString
  rw [dictString_stored (by omega) (by rwa [hcode, Nat.add_sub_cancel_left]), hn,
    dictString_fuel hd (Nat.le_succ n) (by omega)]

/-- A code below NEXT stands for at least one byte. -/
theorem codeString_ne_nil {d : List DictEntry} (hd : DictOk d) {k : Code} (hk : k.toNat < 256 + d.length) :
    codeString d k ≠ [] := by
  by_cases hbyte : k.toNat < 256
  · simp [codeString_byte d hbyte]
  · have hj : k.toNat - 256 < d.length := by omega
    have hentry := codeString_entry hd (List.getElem?_eq_getElem hj)
    have hcode : BitVec.ofNat 16 (256 + (k.toNat - 256)) = k := by
      rw [Nat.add_sub_cancel' (Nat.not_lt.1 hbyte), BitVec.ofNat_toNat, BitVec.setWidth_eq]
    rw [hcode] at hentry
    simp [hentry]

/-- Settles O41: a stored code extends a smaller one, whose string the turns left are enough for. -/
theorem dictionaryStringsUnfold : Obligations.DictionaryStringsUnfold := by
  intro d hd
  refine ⟨fun k hk => by rw [codeString_byte d hk, BitVec.ofNat_toNat],
    fun j e h => ⟨codeString_entry hd h, ?_⟩⟩
  have hj := (List.getElem?_eq_some_iff.1 h).1
  have hsmaller := prefixCode_lt hd h
  have hpos := List.length_pos_iff.2 (codeString_ne_nil hd (k := e.prefixCode) (by omega))
  simp only [codeString_entry hd h, List.length_append, List.length_singleton]
  omega

end Sys2Proof.Machine
end

/-! PROOF. RD and WR through the windows (`20_memory.md` R70 to R83): what a read returns, what a write sets, and what
is refused; and the storage that no command but WR writes. -/

section
namespace Sys2Proof.Machine

/-! ### How RD and WR end -/

/-- RD of an element that exists answers it. -/
theorem exec_rd_of_some {s : State} {space : BitVec 4} {sp : Space} {addr : BitVec 20} {v : Word32}
    (hsp : Space.ofNum space = some sp) (h : memRead s sp addr = some v) :
    exec (.rd space addr) s = .next (s.answer 0 v) := by
  simp [exec, execRd, runUngated, rdRule, hsp, h]

/-- RD of an address that does not exist is refused. -/
theorem exec_rd_of_none {s : State} {space : BitVec 4} {sp : Space} {addr : BitVec 20}
    (hsp : Space.ofNum space = some sp) (h : memRead s sp addr = none) :
    exec (.rd space addr) s = .next (s.refuse .addr) := by
  simp [exec, execRd, runUngated, rdRule, hsp, h, State.refuse]

/-- RD of a space that does not exist is refused. -/
theorem exec_rd_of_no_space {space : BitVec 4} (s : State) (addr : BitVec 20) (hsp : Space.ofNum space = none) :
    exec (.rd space addr) s = .next (s.refuse .addr) := by
  simp [exec, execRd, runUngated, rdRule, hsp, State.refuse]

/-- WR that the window accepts leaves what the window's write leaves. -/
theorem exec_wr_of_ok {s t : State} {space : BitVec 4} {sp : Space} {addr : BitVec 20} {v : Word32}
    (hf : s.faulted = false) (hsp : Space.ofNum space = some sp) (h : memWrite s sp addr v = .ok t) :
    exec (.wr space addr v) s = .next (t.answer 0 0) := by
  simp [exec, execWr, runGated_unfaulted hf, wrRule, hsp, h]

/-- WR that the window refuses is refused with the window's code. -/
theorem exec_wr_of_error {s : State} {space : BitVec 4} {sp : Space} {addr : BitVec 20} {v : Word32}
    {code : RejectCode} (hf : s.faulted = false) (hsp : Space.ofNum space = some sp)
    (h : memWrite s sp addr v = .error code) : exec (.wr space addr v) s = .next (s.refuse code) := by
  simp [exec, execWr, runGated_unfaulted hf, wrRule, hsp, h, State.refuse]

/-- WR to a space that does not exist is refused. -/
theorem exec_wr_of_no_space {s : State} {space : BitVec 4} (addr : BitVec 20) (v : Word32) (hf : s.faulted = false)
    (hsp : Space.ofNum space = none) : exec (.wr space addr v) s = .next (s.refuse .addr) := by
  simp [exec, execWr, runGated_unfaulted hf, wrRule, hsp, State.refuse]

/-- The spaces that do not exist are 10 to 15 (`20_memory.md` R70). -/
theorem space_ofNum_eq_none {n : BitVec 4} (h : 10 ≤ n.toNat) : Space.ofNum n = none := by
  revert n
  decide

/-! ### Words put together from fields -/

/-- A concatenation as a number: the high part shifted up past the low one. -/
theorem toNat_append_eq_add {m n : Nat} (x : BitVec m) (y : BitVec n) :
    (x ++ y).toNat = x.toNat * 2 ^ n + y.toNat := by
  rw [BitVec.toNat_append, ← Nat.shiftLeft_add_eq_or_of_lt y.isLt, Nat.shiftLeft_eq]

/-- A word with a number's value is the word of that number. -/
theorem eq_ofNat_of_toNat_eq {n k : Nat} {x : BitVec n} (h : x.toNat = k) : x = BitVec.ofNat n k := by
  rw [← h, BitVec.ofNat_toNat, BitVec.setWidth_eq]

/-- The number field word f of a node record holds (`20_memory.md` R80). -/
def nodeField (n : Node) (f : Nat) : Nat :=
  match f with
  | 0 => n.weight.toNat % 2 ^ 32
  | 1 => n.weight.toNat / 2 ^ 32
  | 2 => n.right.toNat * 2 ^ 16 + n.left.toNat
  | _ => n.leaf.toNat * 2 ^ 8 + n.sym.toNat

/-- The part of a weight above its low 32 bits has 8 bits. -/
theorem weight_high_toNat (w : Weight) : (w.extractLsb' 32 8).toNat = w.toNat / 2 ^ 32 := by
  have hw : w.toNat < 2 ^ 40 := w.isLt
  rw [BitVec.extractLsb'_toNat, Nat.shiftRight_eq_div_pow]
  omega

theorem nodeWord_eq (n : Node) (f : Nat) : nodeWord n f = BitVec.ofNat 32 (nodeField n f) := by
  match f with
  | 0 =>
    refine eq_ofNat_of_toNat_eq ?_
    simp [nodeWord, nodeField]
  | 1 =>
    change (n.weight.extractLsb' 32 8).setWidth 32 = _
    rw [← BitVec.ofNat_toNat, weight_high_toNat]
    rfl
  | 2 => exact eq_ofNat_of_toNat_eq (toNat_append_eq_add n.right n.left)
  | f + 3 =>
    refine eq_ofNat_of_toNat_eq ?_
    simp only [nodeWord, toNat_append_eq_add]
    simp [nodeField]

theorem heapWord_eq (k : HeapKey) (f : Nat) :
    heapWord k f = BitVec.ofNat 32
      (if f = 0 then k.weight.toNat % 2 ^ 32 else k.id.toNat * 2 ^ 16 + k.weight.toNat / 2 ^ 32) := by
  refine eq_ofNat_of_toNat_eq ?_
  cases f with
  | zero => simp [heapWord]
  | succ f =>
    simp only [heapWord, toNat_append_eq_add, weight_high_toNat]
    simp [Nat.mul_assoc]

theorem cbWord_eq (e : CbEntry) (f : Nat) :
    cbWord e f = BitVec.ofNat 32
      (if f = 0 then e.valid.toNat * 2 ^ 31 + e.len.toNat else e.bits.toNat / 2 ^ (32 * (f - 1)) % 2 ^ 32) := by
  refine eq_ofNat_of_toNat_eq ?_
  cases f with
  | zero =>
    simp only [cbWord, toNat_append_eq_add]
    simp [Nat.mul_assoc]
  | succ f => simp [cbWord, Nat.shiftRight_eq_div_pow]

/-! ### The codebook window's addresses -/

theorem cbAddress_eq_some {addr : BitVec 20} {sym : Byte} {f : Nat} (h : addr.toNat = 16 * sym.toNat + f)
    (hf : f ≤ 8) : cbAddress addr = some (sym, f) := by
  have hsym : sym.toNat < 256 := sym.isLt
  have hdiv : addr.toNat / 16 = sym.toNat := by omega
  have hmod : addr.toNat % 16 = f := by omega
  rw [cbAddress, if_pos (by omega), hdiv, hmod, BitVec.ofNat_toNat, BitVec.setWidth_eq]

theorem cbAddress_eq_none {addr : BitVec 20} (h : 4096 ≤ addr.toNat ∨ 9 ≤ addr.toNat % 16) :
    cbAddress addr = none :=
  if_neg (by omega)

/-! ### The dictionary windows (`20_memory.md` R83) -/

/-- The word of a dictionary code: its byte above the code it extends. -/
theorem zero_append_byte_append_code (b : Byte) (k : Code) :
    (0 : BitVec 8) ++ b ++ k = BitVec.ofNat 32 (b.toNat * 2 ^ 16 + k.toNat) := by
  refine eq_ofNat_of_toNat_eq ?_
  simp only [toNat_append_eq_add]
  simp

theorem dictWord_byte (d : List DictEntry) {k : Nat} (h : k < 256) :
    dictWord d k = some (BitVec.ofNat 32 (k * 2 ^ 16 + 0xFFFF)) := by
  have hbyte : (BitVec.ofNat 8 k).toNat = k := Nat.mod_eq_of_lt h
  rw [dictWord, if_pos h, zero_append_byte_append_code, hbyte]
  rfl

theorem dictWord_entry {d : List DictEntry} {k : Nat} {e : DictEntry} (hk : 256 ≤ k) (he : d[k - 256]? = some e) :
    dictWord d k = some (BitVec.ofNat 32 (e.byte.toNat * 2 ^ 16 + e.prefixCode.toNat)) := by
  rw [dictWord, if_neg (Nat.not_lt.2 hk), he]
  exact congrArg some (zero_append_byte_append_code e.byte e.prefixCode)

theorem dictWord_end {d : List DictEntry} {k : Nat} (h : 256 + d.length ≤ k) : dictWord d k = none := by
  rw [dictWord, if_neg (by omega), List.getElem?_eq_none (by omega)]
  rfl

/-- RD of a window that shows a dictionary. -/
theorem exec_rd_dict {s : State} {space : BitVec 4} {sp : Space} {addr : BitVec 20} {d : List DictEntry}
    (hsp : Space.ofNum space = some sp) (hd : memRead s sp addr = dictWord d addr.toNat) :
    (addr.toNat < 256 →
      exec (.rd space addr) s = .next (s.answer 0 (BitVec.ofNat 32 (addr.toNat * 2 ^ 16 + 0xFFFF)))) ∧
    (∀ e, 256 ≤ addr.toNat → d[addr.toNat - 256]? = some e →
      exec (.rd space addr) s =
        .next (s.answer 0 (BitVec.ofNat 32 (e.byte.toNat * 2 ^ 16 + e.prefixCode.toNat)))) ∧
    (256 + d.length ≤ addr.toNat → exec (.rd space addr) s = .next (s.refuse .addr)) :=
  ⟨fun h => exec_rd_of_some hsp (hd.trans (dictWord_byte d h)),
    fun _ hk he => exec_rd_of_some hsp (hd.trans (dictWord_entry hk he)),
    fun h => exec_rd_of_none hsp (hd.trans (dictWord_end h))⟩

/-! ### What the other windows show -/

theorem memRead_obuf {s : State} {addr : BitVec 20} {v : Byte} (h : s.obuf[addr.toNat]? = some v) :
    memRead s .obuf addr = some (BitVec.ofNat 32 v.toNat) := by
  simp [memRead, h]

theorem memRead_ibuf {s : State} {addr : BitVec 20} (h : addr.toNat < s.cfg.ibufBytes) :
    memRead s .ibuf addr = some (BitVec.ofNat 32 (s.ibufRead addr.toNat).toNat) := by
  simp [memRead, h]

theorem memRead_cbuf {s : State} {addr : BitVec 20} (h : addr.toNat < s.cfg.cbufWords) :
    memRead s .cbuf addr = some (BitVec.ofNat 32 (s.cbufRead addr.toNat).toNat) := by
  simp [memRead, h]

/-- The bytes of the bit stream are those of `toBytes` (`20_memory.md` R78, R84). -/
theorem memRead_bbuf {s : State} {addr : BitVec 20} {v : Byte} (h : (toBytes s.bits)[addr.toNat]? = some v) :
    memRead s .bbuf addr = some (BitVec.ofNat 32 v.toNat) := by
  obtain ⟨hlt, hv⟩ := List.getElem?_eq_some_iff.1 h
  rw [toBytes_length] at hlt
  have hbyte : byteAt s.bits addr.toNat = v := by simpa [toBytes] using hv
  simp [memRead, State.bitlen, hlt, hbyte]

theorem memRead_node {s : State} {addr : BitVec 20} {n : Node} (h : s.nodes[addr.toNat / 4]? = some n) :
    memRead s .node addr = some (BitVec.ofNat 32 (nodeField n (addr.toNat % 4))) := by
  simp [memRead, h, nodeWord_eq]

theorem memRead_heap {s : State} {addr : BitVec 20} {k : HeapKey} (h : s.heap[addr.toNat / 2]? = some k) :
    memRead s .heap addr = some (BitVec.ofNat 32
      (if addr.toNat % 2 = 0 then k.weight.toNat % 2 ^ 32 else k.id.toNat * 2 ^ 16 + k.weight.toNat / 2 ^ 32)) := by
  rw [← heapWord_eq]
  simp [memRead, h]

theorem memRead_cb {s : State} {addr : BitVec 20} {sym : Byte} {f : Nat} (h : addr.toNat = 16 * sym.toNat + f)
    (hf : f ≤ 8) :
    memRead s .cb addr = some (BitVec.ofNat 32
      (if f = 0 then (cbEntry s.cb sym).valid.toNat * 2 ^ 31 + (cbEntry s.cb sym).len.toNat
       else (cbEntry s.cb sym).bits.toNat / 2 ^ (32 * (f - 1)) % 2 ^ 32)) := by
  rw [← cbWord_eq]
  simp [memRead, cbAddress_eq_some h hf]

/-- Past the element number `l.length`, at `w` words an element, a window over a list shows nothing. -/
theorem getElem?_div_eq_none {α : Type} {l : List α} {a w : Nat} (hw : 0 < w) (h : w * l.length ≤ a) :
    l[a / w]? = none :=
  List.getElem?_eq_none ((Nat.le_div_iff_mul_le hw).2 (Nat.mul_comm w _ ▸ h))

/-- Settles O17: a read ends in what its window shows at the address, and each window shows the fields of its element
or nothing. -/
theorem rdReturnsWindowElements : Obligations.RdReturnsWindowElements := by
  intro s a
  refine ⟨fun v h => exec_rd_of_some rfl (memRead_obuf h), fun h => exec_rd_of_none rfl ?obufEnd,
    fun h => exec_rd_of_some rfl (memRead_ibuf h), fun h => exec_rd_of_none rfl (if_neg (Nat.not_lt.2 h)),
    fun h => exec_rd_of_some rfl (memRead_cbuf h), fun h => exec_rd_of_none rfl (if_neg (Nat.not_lt.2 h)),
    fun v h => exec_rd_of_some rfl (memRead_bbuf h), fun h => exec_rd_of_none rfl (if_neg (Nat.not_lt.2 h)),
    fun n h => exec_rd_of_some rfl (memRead_node h), fun h => exec_rd_of_none rfl ?nodeEnd,
    fun k h => exec_rd_of_some rfl (memRead_heap h), fun h => exec_rd_of_none rfl ?heapEnd,
    fun sym f h hf => exec_rd_of_some rfl (memRead_cb h hf), fun h => exec_rd_of_none rfl ?cbHole,
    fun p hp => ?dictionaries, fun space h => exec_rd_of_no_space s a (space_ofNum_eq_none h)⟩
  case obufEnd => simp [memRead, List.getElem?_eq_none h]
  case nodeEnd => simp [memRead, getElem?_div_eq_none (by decide) h]
  case heapEnd => simp [memRead, getElem?_div_eq_none (by decide) h]
  case cbHole => simp [memRead, cbAddress_eq_none h]
  case dictionaries =>
    simp only [List.mem_cons, List.not_mem_nil, or_false] at hp
    rcases hp with rfl | rfl
    · exact exec_rd_dict (sp := .edict) rfl rfl
    · exact exec_rd_dict (sp := .ddict) rfl rfl

/-! ### Writes of registers (`20_memory.md` R74, R76) -/

/-- Settles O18: a write of one of the three registers is the register's own check. -/
theorem wrSetsRegisters : Obligations.WrSetsRegisters := by
  intro s v hf
  refine ⟨fun h => exec_wr_of_ok hf rfl ?ilen, fun h => exec_wr_of_error hf rfl ?ilenWide,
    fun h => exec_wr_of_ok hf rfl ?clen, fun h => exec_wr_of_error hf rfl ?clenWide,
    fun h => exec_wr_of_error hf rfl ?capActive, fun he hd h => exec_wr_of_error hf rfl ?capRange,
    fun he hd hlow hhigh => exec_wr_of_ok hf rfl ?cap⟩
  case ilen | clen => exact if_pos h
  case ilenWide | clenWide => exact if_neg (Nat.not_le.2 h)
  case capActive => exact if_pos (by simpa using h)
  case capRange => exact (if_neg (by simp [he, hd])).trans (if_pos h)
  case cap => exact (if_neg (by simp [he, hd])).trans (if_neg (by omega))

/-- Only numbers 5, 8 and 9 name registers that can be written (`10_state.md` R54). -/
theorem csr_ofNum_writable {a : Nat} {r : Csr} (h : Csr.ofNum a = some r) (hr : r ∈ [Csr.ilen, .clen, .lzwCap]) :
    a = 5 ∨ a = 8 ∨ a = 9 := by
  unfold Csr.ofNum at h
  split at h <;> cases h <;> simp_all

/-- A write of any other register is refused. -/
theorem csrWrite_readOnly (s : State) (v : Word32) {r : Csr} (h : r ∉ [Csr.ilen, .clen, .lzwCap]) :
    csrWrite s r v = .error .addr := by
  cases r
  case ilen | clen | lzwCap => simp at h
  all_goals rfl

/-- A write of a read-only register, or of one that does not exist, is refused. -/
theorem memWrite_csr_readOnly (s : State) (v : Word32) {addr : BitVec 20} (h5 : addr ≠ 0x05) (h8 : addr ≠ 0x08)
    (h9 : addr ≠ 0x09) : memWrite s .csr addr v = .error .addr := by
  cases hr : Csr.ofNum addr.toNat with
  | none => simp [memWrite, hr]
  | some r =>
    have hread : r ∉ [Csr.ilen, .clen, .lzwCap] := fun hmem => by
      rcases csr_ofNum_writable hr hmem with h | h | h
      · exact h5 (BitVec.eq_of_toNat_eq h)
      · exact h8 (BitVec.eq_of_toNat_eq h)
      · exact h9 (BitVec.eq_of_toNat_eq h)
    simp [memWrite, hr, csrWrite_readOnly s v hread]

/-! ### Windows the host cannot write -/

/-- A number other than those of the writable spaces names a read-only space or none (`20_memory.md` R70, R74). -/
theorem space_ofNum_readOnly {n : BitVec 4} (h : n ∉ ([0, 1, 4, 7] : List (BitVec 4))) :
    Space.ofNum n ∈ [none, some .obuf, some .bbuf, some .node, some .heap, some .edict, some .ddict] := by
  revert n
  decide

theorem exec_wr_readOnly {s : State} {space : BitVec 4} (addr : BitVec 20) (v : Word32) (hf : s.faulted = false)
    (h : space ∉ ([0, 1, 4, 7] : List (BitVec 4))) : exec (.wr space addr v) s = .next (s.refuse .addr) := by
  have hspace := space_ofNum_readOnly h
  simp only [List.mem_cons, List.not_mem_nil, or_false] at hspace
  rcases hspace with hsp | hsp | hsp | hsp | hsp | hsp | hsp
  · exact exec_wr_of_no_space addr v hf hsp
  all_goals exact exec_wr_of_error hf hsp rfl

/-! ### The storage that only WR and a reset write -/

/-- What no command but WR and RESET writes: the parameters, IBUF with its length, LZW_CAP, and the number of resets
that names the free values of the cells (`20_memory.md` R74, `70_reset_and_hazards.md` R313). -/
def State.hostWritten (s : State) : Config × List Host.Cell × Word32 × Word32 × Nat :=
  (s.cfg, s.ibuf, s.ilen, s.lzwCap, s.epoch)

theorem hostWritten_eq_iff {s t : State} :
    t.hostWritten = s.hostWritten ↔
      t.cfg = s.cfg ∧ t.ibuf = s.ibuf ∧ t.ilen = s.ilen ∧ t.lzwCap = s.lzwCap ∧ t.epoch = s.epoch := by
  simp [State.hostWritten]

/-- The state a result leaves, if it leaves one of its own, has the property. -/
def CmdResult.Leaves (P : State → Prop) : CmdResult → Prop
  | .success t _ => P t
  | .reject _ => True
  | .fault t _ _ => P t

/-- A rule that writes none of it. -/
def KeepsHostWritten (rule : State → CmdResult) : Prop :=
  ∀ s, (rule s).Leaves fun t => t.hostWritten = s.hostWritten

theorem leaves_ite {P : State → Prop} {p : Prop} [Decidable p] {a b : CmdResult} (ha : a.Leaves P)
    (hb : b.Leaves P) : (if p then a else b).Leaves P := by
  split
  · exact ha
  · exact hb

/-- The recording of a result writes none of it either. -/
theorem finish_hostWritten {s : State} {r : CmdResult} (h : r.Leaves fun t => t.hostWritten = s.hostWritten) :
    (finish s r).hostWritten = s.hostWritten := by
  cases r with
  | success t data => exact h
  | reject code => simp [State.hostWritten]
  | fault t code info => exact h

theorem runGated_hostWritten {rule : State → CmdResult} (hrule : KeepsHostWritten rule) {s t : State}
    (h : runGated rule s = .next t) : t.hostWritten = s.hostWritten := by
  obtain rfl := Host.Outcome.next.inj h
  exact finish_hostWritten (leaves_ite trivial (hrule s))

theorem runUngated_hostWritten {rule : State → CmdResult} (hrule : KeepsHostWritten rule) {s t : State}
    (h : runUngated rule s = .next t) : t.hostWritten = s.hostWritten := by
  obtain rfl := Host.Outcome.next.inj h
  exact finish_hostWritten (hrule s)

/-! The state operations -/

theorem foldl_hostWritten {α : Type} {f : State → α → State} (hf : ∀ s a, (f s a).hostWritten = s.hostWritten)
    (l : List α) (s : State) : (l.foldl f s).hostWritten = s.hostWritten := by
  induction l generalizing s with
  | nil => rfl
  | cons a l ih => exact (ih (f s a)).trans (hf s a)

theorem addLeaf_hostWritten (s : State) (sym : Byte) (weight : Weight) :
    (s.addLeaf sym weight).hostWritten = s.hostWritten := rfl

theorem mergeOnce_hostWritten (s : State) : s.mergeOnce.hostWritten = s.hostWritten := by
  rw [mergeOnce_frame]
  rfl

theorem mergeAll_hostWritten (fuel : Nat) (s : State) : (State.mergeAll fuel s).hostWritten = s.hostWritten := by
  induction fuel generalizing s with
  | zero => rfl
  | succ fuel ih =>
    unfold State.mergeAll
    split
    · exact (ih s.mergeOnce).trans (mergeOnce_hostWritten s)
    · rfl

theorem encodeByte_hostWritten (s : State) (c : Byte) : (s.encodeByte c).hostWritten = s.hostWritten := by
  rw [encodeByte_frame]
  rfl

theorem encoderFlush_hostWritten (s : State) : s.encoderFlush.hostWritten = s.hostWritten := by
  rw [encoderFlush_frame]
  rfl

/-! The rules -/

theorem nop_keeps : KeepsHostWritten fun s => .success s 0 := fun _ => rfl

theorem rdRule_keeps (space : BitVec 4) (addr : BitVec 20) : KeepsHostWritten (rdRule space addr) := by
  intro s
  obtain h | ⟨v, h⟩ := rdRule_cases space addr s
  · exact h ▸ trivial
  · exact h ▸ rfl

theorem bssClr_keeps : KeepsHostWritten fun s => .success { s with bits := [] } 0 := fun _ => rfl

theorem appendBits_keeps (add : List Bool) : KeepsHostWritten (appendBits add) :=
  fun _ => leaves_ite trivial rfl

theorem bssAppendRule_keeps (n : BitVec 6) (bits : Word32) : KeepsHostWritten (bssAppendRule n bits) :=
  fun s => leaves_ite trivial (appendBits_keeps _ s)

theorem bssAppsymRule_keeps (sym : Byte) : KeepsHostWritten (bssAppsymRule sym) := by
  intro s
  unfold bssAppsymRule
  split
  · exact rfl
  · exact appendBits_keeps _ s

theorem bssEnc_keeps : KeepsHostWritten fun s => appendBits (encodeBytes s.cb s.inputBytes) s :=
  fun s => appendBits_keeps _ s

theorem storeDecoded_keeps (e : DecodeEnd) : KeepsHostWritten fun s => storeDecoded s e := by
  intro s
  cases e with
  | done out => exact rfl
  | noCode out start => exact rfl
  | full => trivial

theorem bssDec_keeps :
    KeepsHostWritten fun s => storeDecoded s (bssDecLoop s.cb s.cfg.obufBytes s.bits 0 [] 0 []) :=
  fun s => storeDecoded_keeps _ s

theorem bssPackRule_keeps (hdr : Bool) : KeepsHostWritten (bssPackRule hdr) :=
  fun _ => leaves_ite trivial rfl

theorem unpackBits_keeps (n off : Nat) : KeepsHostWritten (unpackBits n off) :=
  fun _ => leaves_ite trivial (leaves_ite trivial rfl)

theorem bssUnpackRule_keeps (hdr : Bool) (nbits : Word32) : KeepsHostWritten (bssUnpackRule hdr nbits) :=
  fun s => leaves_ite (leaves_ite trivial (unpackBits_keeps _ _ s)) (unpackBits_keeps _ _ s)

theorem htbClr_keeps : KeepsHostWritten fun s => .success s.clearTable 0 := fun _ => rfl

theorem htbLoadRule_keeps (sym : Byte) (weight : Word32) : KeepsHostWritten (htbLoadRule sym weight) :=
  fun _ => leaves_ite trivial (leaves_ite trivial rfl)

theorem htbCountRule_keeps (order : Bool) : KeepsHostWritten (htbCountRule order) :=
  fun s => foldl_hostWritten (fun s sym => addLeaf_hostWritten s sym _) _ s.clearTable

theorem htbStepRule_keeps : KeepsHostWritten htbStepRule :=
  fun s => leaves_ite trivial (leaves_ite trivial (mergeOnce_hostWritten s))

theorem htbAssignRule_keeps : KeepsHostWritten htbAssignRule :=
  fun _ => leaves_ite trivial (leaves_ite trivial (leaves_ite trivial rfl))

theorem htbBuildRule_keeps : KeepsHostWritten htbBuildRule :=
  fun s => leaves_ite trivial (leaves_ite trivial (mergeAll_hostWritten s.heap.length s))

theorem fwAssignRule_keeps : KeepsHostWritten fwAssignRule :=
  fun _ => leaves_ite trivial (leaves_ite trivial rfl)

theorem fwEncRule_keeps : KeepsHostWritten fwEncRule :=
  fun _ => leaves_ite trivial (leaves_ite trivial rfl)

theorem fwDecRule_keeps : KeepsHostWritten fwDecRule :=
  fun s => leaves_ite trivial (leaves_ite rfl (leaves_ite rfl (leaves_ite rfl (storeDecoded_keeps _ s))))

theorem lzwEinit_keeps : KeepsHostWritten fun s => .success s.encoderInit 0 := fun _ => rfl

theorem lzwEbyteRule_keeps (c : Byte) : KeepsHostWritten (lzwEbyteRule c) := by
  intro s
  refine leaves_ite trivial ?_
  cases s.mustEmit c with
  | none => exact encodeByte_hostWritten s c
  | some e => exact leaves_ite trivial (encodeByte_hostWritten s c)

theorem lzwEflushRule_keeps : KeepsHostWritten lzwEflushRule := by
  intro s
  refine leaves_ite trivial ?_
  split
  · exact encoderFlush_hostWritten s
  · exact leaves_ite trivial (encoderFlush_hostWritten s)

theorem lzwEncRule_keeps : KeepsHostWritten lzwEncRule :=
  fun s => (encoderFlush_hostWritten _).trans (foldl_hostWritten encodeByte_hostWritten _ s.encoderInit)

theorem lzwDinit_keeps : KeepsHostWritten fun s => .success s.decoderInit 0 := fun _ => rfl

theorem emitEntry_keeps (entry : List Byte) (d : List DictEntry) (k : Code) :
    KeepsHostWritten fun s => emitEntry s entry d k :=
  fun _ => leaves_ite trivial rfl

theorem decodeCode_keeps (k : Code) : KeepsHostWritten (decodeCode k) := by
  intro s
  unfold decodeCode
  split
  · exact leaves_ite rfl (emitEntry_keeps _ _ _ s)
  · split
    · exact rfl
    · exact emitEntry_keeps _ _ _ s

theorem lzwDcodeRule_keeps (k : Code) : KeepsHostWritten (lzwDcodeRule k) :=
  fun s => leaves_ite trivial (decodeCode_keeps k s)

/-- Each code keeps it, so the loop of LZW.DEC does. -/
theorem decodeCodes_keeps (ks : List Code) (j : Nat) : KeepsHostWritten (decodeCodes ks j) := by
  induction ks generalizing j with
  | nil => exact fun _ => rfl
  | cons k ks ih =>
    intro s
    have hk := decodeCode_keeps k s
    unfold decodeCodes
    cases hr : decodeCode k s with
    | success t d =>
      have ht : t.hostWritten = s.hostWritten := by rwa [hr] at hk
      exact ht ▸ ih (j + 1) t
    | reject code => trivial
    | fault t code info => rwa [hr] at hk

theorem lzwDec_keeps : KeepsHostWritten fun s => decodeCodes s.inputCodes 0 s.decoderInit :=
  fun s => decodeCodes_keeps _ 0 s.decoderInit

/-- No command but WR and RESET writes any of it. -/
theorem exec_hostWritten {i : Instr} (hwr : ∀ space addr v, i ≠ .wr space addr v) (hreset : i ≠ .reset)
    {s t : State} (h : exec i s = .next t) : t.hostWritten = s.hostWritten :=
  match i, h with
  | .nop, h => runUngated_hostWritten nop_keeps h
  | .reset, _ => absurd rfl hreset
  | .rd space addr, h => runUngated_hostWritten (rdRule_keeps space addr) h
  | .wr space addr v, _ => absurd rfl (hwr space addr v)
  | .bssClr, h => runGated_hostWritten bssClr_keeps h
  | .bssAppend n bits, h => runGated_hostWritten (bssAppendRule_keeps n bits) h
  | .bssAppsym sym, h => runGated_hostWritten (bssAppsymRule_keeps sym) h
  | .bssEnc, h => runGated_hostWritten bssEnc_keeps h
  | .bssDec, h => runGated_hostWritten bssDec_keeps h
  | .bssPack hdr, h => runGated_hostWritten (bssPackRule_keeps hdr) h
  | .bssUnpack hdr nbits, h => runGated_hostWritten (bssUnpackRule_keeps hdr nbits) h
  | .htbClr, h => runGated_hostWritten htbClr_keeps h
  | .htbLoad sym weight, h => runGated_hostWritten (htbLoadRule_keeps sym weight) h
  | .htbCount order, h => runGated_hostWritten (htbCountRule_keeps order) h
  | .htbStep, h => runGated_hostWritten htbStepRule_keeps h
  | .htbAssign, h => runGated_hostWritten htbAssignRule_keeps h
  | .htbBuild, h => runGated_hostWritten htbBuildRule_keeps h
  | .lzwEinit, h => runGated_hostWritten lzwEinit_keeps h
  | .lzwEbyte c, h => runGated_hostWritten (lzwEbyteRule_keeps c) h
  | .lzwEflush, h => runGated_hostWritten lzwEflushRule_keeps h
  | .lzwEnc, h => runGated_hostWritten lzwEncRule_keeps h
  | .lzwDinit, h => runGated_hostWritten lzwDinit_keeps h
  | .lzwDcode k, h => runGated_hostWritten (lzwDcodeRule_keeps k) h
  | .lzwDec, h => runGated_hostWritten lzwDec_keeps h
  | .fwAssign, h => runGated_hostWritten fwAssignRule_keeps h
  | .fwEnc, h => runGated_hostWritten fwEncRule_keeps h
  | .fwDec, h => runGated_hostWritten fwDecRule_keeps h

/-- Settles O21: every other target of WR is refused by its window, and every other command's rule keeps IBUF. -/
theorem wrElsewhereIsRefused : Obligations.WrElsewhereIsRefused := by
  refine ⟨fun s addr v hf => ⟨fun h5 h8 h9 => exec_wr_of_error hf rfl (memWrite_csr_readOnly s v h5 h8 h9),
    fun h => exec_wr_of_error hf rfl (if_neg (Nat.not_lt.2 h)),
    fun h => exec_wr_of_error hf rfl (if_neg (Nat.not_lt.2 h)), fun h => exec_wr_of_error hf rfl ?cbHole,
    fun space h => exec_wr_readOnly addr v hf h⟩, fun i s t hwr hreset h => ?ibuf⟩
  case cbHole => simp [memWrite, cbAddress_eq_none h]
  case ibuf =>
    obtain ⟨-, hibuf, -⟩ := hostWritten_eq_iff.1 (exec_hostWritten hwr hreset h)
    exact hibuf

end Sys2Proof.Machine
end

/-! PROOF. The commands that answer 0 and only clear or start a unit (`40_system_commands.md` R131 and the rules it
points to): NOP has no fault gate, and the rules of the other four always succeed once it is passed. -/

section
namespace Sys2Proof.Machine

/-- Behind an open fault gate, a rule that always succeeds answers the state it makes. -/
theorem runGated_success (change : State → State) (d : Word32) {s : State} (hf : s.faulted = false) :
    runGated (fun s => .success (change s) d) s = .next ((change s).answer 0 d) :=
  runGated_unfaulted hf

theorem exec_nop (s : State) : exec .nop s = .next (s.answer 0 0) := rfl

theorem exec_bssClr {s : State} (hf : s.faulted = false) :
    exec .bssClr s = .next ({ s with bits := [] }.answer 0 0) :=
  runGated_success (fun s => { s with bits := [] }) 0 hf

theorem exec_htbClr {s : State} (hf : s.faulted = false) : exec .htbClr s = .next (s.clearTable.answer 0 0) :=
  runGated_success State.clearTable 0 hf

theorem exec_lzwEinit {s : State} (hf : s.faulted = false) : exec .lzwEinit s = .next (s.encoderInit.answer 0 0) :=
  runGated_success State.encoderInit 0 hf

theorem exec_lzwDinit {s : State} (hf : s.faulted = false) : exec .lzwDinit s = .next (s.decoderInit.answer 0 0) :=
  runGated_success State.decoderInit 0 hf

/-- Settles O15: each command answers the state its rule succeeds with, written out. -/
theorem clearingCommandsComplete : Obligations.ClearingCommandsComplete :=
  ⟨exec_nop, fun _ hf => ⟨exec_bssClr hf, exec_htbClr hf, exec_lzwEinit hf, exec_lzwDinit hf⟩⟩

end Sys2Proof.Machine
end

/-! PROOF. The bytes of a bit stream and the stream of bytes (`41_bitstream_serializer.md` R151, R152): bit t of a
stream has its place at bit `7 - t mod 8` of byte `t div 8`. -/

section
namespace Sys2Proof.Machine

/-- A number of n bits is the sum of its bits times their powers of two. -/
theorem bitsVal_map_range (n : Nat) (f : Nat → Bool) :
    bitsVal ((List.range n).map f) = ((List.range n).map fun t => (f t).toNat * 2 ^ (n - 1 - t)).sum := by
  induction n with
  | zero => rfl
  | succ n ih =>
    have hdouble : ∀ t ∈ List.range n, 2 * ((f t).toNat * 2 ^ (n - 1 - t)) = (f t).toNat * 2 ^ (n - t) := by
      intro t ht
      rw [show n - t = n - 1 - t + 1 by have := List.mem_range.1 ht; omega, pow_succ]
      ring
    simp only [List.range_succ, List.map_append, List.map_cons, List.map_nil, bitsVal_concat, ih, List.sum_append,
      List.sum_singleton, ← List.sum_map_mul_left, List.map_congr_left hdouble, Nat.add_sub_cancel, Nat.sub_self,
      pow_zero, mul_one]

/-- Bit n-1-i of the number that n bits stand for is bit i of them. -/
theorem testBit_bitsVal (l : List Bool) {i : Nat} (h : i < l.length) :
    (bitsVal l).testBit (l.length - 1 - i) = l[i] := by
  rw [← bitsOf_getElem _ _ _ (by rwa [bitsOf_length])]
  simp only [bitsOf_bitsVal]

theorem byteAt_toNat (stream : List Bool) (j : Nat) :
    (byteAt stream j).toNat =
      ((List.range 8).map fun t => (stream.getD (8 * j + t) false).toNat * 2 ^ (7 - t)).sum := by
  have hlt := bitsVal_lt ((List.range 8).map fun t => stream.getD (8 * j + t) false)
  rw [List.length_map, List.length_range] at hlt
  rw [byteAt, BitVec.toNat_ofNat, Nat.mod_eq_of_lt hlt, bitsVal_map_range]

/-- Bit `7 - t` of byte j is bit `8 j + t` of the stream. -/
theorem byteAt_getLsbD (stream : List Bool) (j : Nat) {t : Nat} (ht : t < 8) :
    (byteAt stream j).getLsbD (7 - t) = stream.getD (8 * j + t) false := by
  have hbit := testBit_bitsVal ((List.range 8).map fun t => stream.getD (8 * j + t) false) (i := t) (by simpa using ht)
  simp only [List.length_map, List.length_range, List.getElem_map, List.getElem_range] at hbit
  rw [byteAt, BitVec.getLsbD_ofNat, hbit, decide_eq_true (by omega), Bool.true_and]

theorem toBytes_getElem? {stream : List Bool} {j : Nat} {v : Byte} (h : (toBytes stream)[j]? = some v) :
    v = byteAt stream j := by
  obtain ⟨hlt, hv⟩ := List.getElem?_eq_some_iff.1 h
  simpa [toBytes] using hv.symm

theorem fromBytes_getElem {buf : List Byte} {n i : Nat} (h : i < (fromBytes buf n).length) :
    (fromBytes buf n)[i] = (buf.getD (i / 8) 0).getLsbD (7 - i % 8) := by
  simp [fromBytes]

theorem toBytes_getD (stream : List Bool) {j : Nat} (h : j < bytesFor stream.length) :
    (toBytes stream).getD j 0 = byteAt stream j := by
  simp [toBytes, List.getD, h]

theorem fromBytes_toBytes (stream : List Bool) : fromBytes (toBytes stream) stream.length = stream := by
  refine List.ext_getElem (fromBytes_length _ _) fun i hi hlt => ?_
  have hbyte : i / 8 < bytesFor stream.length := by
    unfold bytesFor
    omega
  rw [fromBytes_getElem hi, toBytes_getD stream hbyte, byteAt_getLsbD stream _ (Nat.mod_lt _ (by decide)),
    Nat.div_add_mod, List.getD_eq_getElem _ _ hlt]

/-- Settles O26: each bit has one place in the bytes, and `fromBytes` reads it there. -/
theorem bytesAndBitsConvert : Obligations.BytesAndBitsConvert := by
  refine ⟨fun stream => ⟨toBytes_length stream, fun j v h => ?_, fromBytes_toBytes stream⟩,
    fun buf n _ => ⟨fromBytes_length buf n, fun i v hi hv => ?_⟩⟩
  · rw [toBytes_getElem? h, byteAt_toNat]
  · have hlt : i < (fromBytes buf n).length := by rwa [fromBytes_length]
    rw [List.getElem?_eq_getElem hlt, fromBytes_getElem, List.getD_eq_getElem?_getD, hv, Option.getD_some]

end Sys2Proof.Machine
end

/-! PROOF. Appending to the bit stream (`41_bitstream_serializer.md` R155 to R158): past their own checks the three
commands are `appendBits` of some bits, and nothing they end in touches the bits before. -/

section
namespace Sys2Proof.Machine

/-- Behind an open fault gate a rule's success is answered. -/
theorem runGated_of_success {rule : State → CmdResult} {s t : State} {d : Word32} (hf : s.faulted = false)
    (h : rule s = .success t d) : runGated rule s = .next (t.answer 0 d) := by
  rw [runGated_unfaulted hf, h, finish_success]

/-- Behind an open fault gate a rule's refusal is recorded and answered. -/
theorem runGated_of_reject {rule : State → CmdResult} {s : State} {code : RejectCode} (hf : s.faulted = false)
    (h : rule s = .reject code) : runGated rule s = .next (s.refuse code) := by
  rw [runGated_unfaulted hf, h, finish_reject, State.refuse]

theorem appendBits_of_fits {add : List Bool} {s : State} (h : s.bits.length + add.length ≤ s.cfg.bitcap) :
    appendBits add s = .success { s with bits := s.bits ++ add } (word32 (s.bits.length + add.length)) := by
  rw [← List.length_append]
  exact if_neg (Nat.not_lt.2 h)

theorem appendBits_of_overflow {add : List Bool} {s : State} (h : s.cfg.bitcap < s.bits.length + add.length) :
    appendBits add s = .reject .capacity :=
  if_pos h

/-- A legal count leaves only the capacity to check. -/
theorem bssAppendRule_of_count {n : BitVec 6} (b : Word32) (s : State) (h1 : 1 ≤ n.toNat) (h32 : n.toNat ≤ 32) :
    bssAppendRule n b s = appendBits (bitsOf n.toNat b.toNat) s :=
  if_neg (by omega)

/-- Settles O22: after the count's check BSS.APPEND is the appending of the number's n low bits. -/
theorem appendAddsBits : Obligations.AppendAddsBits := by
  refine fun s n b hf => ⟨fun h => runGated_of_reject hf (if_pos h), fun h1 h32 hfull => ?_, fun h1 h32 hfits => ?_⟩
  · refine runGated_of_reject hf ((bssAppendRule_of_count b s h1 h32).trans (appendBits_of_overflow ?_))
    rwa [bitsOf_length]
  · refine ⟨bitsOf n.toNat b.toNat, bitsOf_length _ _, fun i hi => ?_, runGated_of_success hf ?_⟩
    · rw [List.getElem?_eq_getElem (by rwa [bitsOf_length]), bitsOf_getElem]
      rfl
    · rw [bssAppendRule_of_count b s h1 h32, appendBits_of_fits (by rwa [bitsOf_length]), bitsOf_length]

theorem bssAppsymRule_of_code {s : State} {sym : Byte} {c : List Bool} (h : codeOf s.cb sym = some c) :
    bssAppsymRule sym s = appendBits c s := by
  simp only [bssAppsymRule, h]

theorem bssAppsymRule_of_no_code {s : State} {sym : Byte} (h : codeOf s.cb sym = none) :
    bssAppsymRule sym s = .success s (word32 s.bits.length) := by
  simp only [bssAppsymRule, h, State.bitlen]

/-- The symbols with a code contribute their codes, the others nothing. -/
theorem encodeBytes_eq_flatten (cb : Vector CbEntry 256) (input : List Byte) :
    encodeBytes cb input = (input.filterMap (codeOf cb)).flatten := by
  induction input with
  | nil => rfl
  | cons c input ih =>
    rw [encodeBytes, List.flatMap_cons, ← encodeBytes, ih]
    cases h : codeOf cb c <;> simp [h]

/-- Settles O24: a symbol without a code is skipped, and all else is the appending of codes. -/
theorem symbolsAppendTheirCodes : Obligations.SymbolsAppendTheirCodes := by
  refine fun s hf => ⟨fun sym h => runGated_of_success hf (bssAppsymRule_of_no_code h), fun sym c h =>
    ⟨fun hfull => runGated_of_reject hf ((bssAppsymRule_of_code h).trans (appendBits_of_overflow hfull)),
     fun hfits => runGated_of_success hf ((bssAppsymRule_of_code h).trans (appendBits_of_fits hfits))⟩, ?_⟩
  rintro add rfl
  rw [← State.inputBytes, ← encodeBytes_eq_flatten]
  exact ⟨fun hfull => runGated_of_reject hf (appendBits_of_overflow hfull),
    fun hfits => runGated_of_success hf (appendBits_of_fits hfits)⟩

/-- A rule that is refused or succeeds with bits, perhaps none, put after the stream. -/
def OnlyAppends (rule : State → CmdResult) : Prop :=
  ∀ s, (∃ code, rule s = .reject code) ∨ ∃ add d, rule s = .success { s with bits := s.bits ++ add } d

theorem appendBits_onlyAppends (add : List Bool) : OnlyAppends (appendBits add) := by
  intro s
  obtain ⟨-, h⟩ | ⟨-, h⟩ := appendBits_cases add s
  · exact .inl ⟨_, h⟩
  · exact .inr ⟨_, _, h⟩

theorem bssAppendRule_onlyAppends (n : BitVec 6) (b : Word32) : OnlyAppends (bssAppendRule n b) := by
  intro s
  unfold bssAppendRule
  split
  · exact .inl ⟨_, rfl⟩
  · exact appendBits_onlyAppends _ s

theorem bssAppsymRule_onlyAppends (sym : Byte) : OnlyAppends (bssAppsymRule sym) := by
  intro s
  cases h : codeOf s.cb sym with
  | none => exact .inr ⟨[], _, by rw [bssAppsymRule_of_no_code h, List.append_nil]⟩
  | some c =>
    rw [bssAppsymRule_of_code h]
    exact appendBits_onlyAppends c s

/-- What a rule that only appends leaves as it was, whether it succeeds, is refused or meets the fault gate. -/
theorem runGated_onlyAppends {rule : State → CmdResult} (hrule : OnlyAppends rule) {s t : State}
    (h : runGated rule s = .next t) :
    t.bits.take s.bits.length = s.bits ∧ (t.err ≠ some 0 → t.bits = s.bits) ∧
      t.obuf = s.obuf ∧ t.cb = s.cb ∧ ∀ a, t.ibufRead a = s.ibufRead a := by
  have hends : (∃ code : RejectCode, t = s.refuse code) ∨
      ∃ add d, t = { s with bits := s.bits ++ add }.answer 0 d := by
    obtain hf | hf := Bool.eq_false_or_eq_true s.faulted
    · exact .inl ⟨.faulted, Host.Outcome.next.inj (h.symm.trans (runGated_faulted hf))⟩
    · obtain ⟨code, hr⟩ | ⟨add, d, hr⟩ := hrule s
      · exact .inl ⟨code, Host.Outcome.next.inj (h.symm.trans (runGated_of_reject hf hr))⟩
      · exact .inr ⟨add, d, Host.Outcome.next.inj (h.symm.trans (runGated_of_success hf hr))⟩
  obtain ⟨code, rfl⟩ | ⟨add, d, rfl⟩ := hends
  · simp [State.refuse, State.ibufRead]
  · simp [State.ibufRead]

/-- Settles O25: each of the three commands is a rule that only appends. -/
theorem appendKeepsEarlierBits : Obligations.AppendKeepsEarlierBits := by
  rintro s t i (rfl | ⟨n, b, rfl⟩ | ⟨sym, rfl⟩) h
  · exact runGated_onlyAppends (fun s => appendBits_onlyAppends _ s) h
  · exact runGated_onlyAppends (bssAppendRule_onlyAppends n b) h
  · exact runGated_onlyAppends (bssAppsymRule_onlyAppends sym) h

end Sys2Proof.Machine
end

/-! PROOF. BSS.DEC on every stream (`41_bitstream_serializer.md` R160, R162): every stream has a cut at its shortest
matches, found bit by bit, and the loop ends as a cut says. -/

section
namespace Sys2Proof.Machine

/-- No beginning of the bits is a code. -/
abbrev NoCodeBegins (cb : Vector CbEntry 256) (bits : List Bool) : Prop :=
  ∀ p, p <+: bits → p ≠ [] → ∀ r, codeOf cb r ≠ some p

theorem noCodeBegins_nil (cb : Vector CbEntry 256) : NoCodeBegins cb [] :=
  fun _ hp hne => absurd (List.prefix_nil.1 hp) hne

theorem noCodeBegins_concat {cb : Vector CbEntry 256} {acc : List Bool} {b : Bool} (h : NoCodeBegins cb acc)
    (hb : ∀ r, codeOf cb r ≠ some (acc ++ [b])) : NoCodeBegins cb (acc ++ [b]) := by
  intro p hp hne
  obtain rfl | hp := List.prefix_concat_iff.1 hp
  · exact hb
  · exact h p hp hne

/-! ### The symbol a code is decoded to -/

theorem matchSymbol_eq_none_iff {cb : Vector CbEntry 256} {acc : List Bool} :
    matchSymbol cb acc = none ↔ ∀ r, codeOf cb r ≠ some acc := by
  have hall : ∀ r : Byte, r ∈ allSymbols := fun r =>
    List.mem_map.2 ⟨r.toNat, List.mem_range.2 r.isLt, by simp⟩
  simp [matchSymbol, hall]

theorem allSymbols_length : allSymbols.length = 256 := by
  rw [allSymbols, List.length_map, List.length_range]

theorem allSymbols_getElem {i : Nat} (h : i < allSymbols.length) : allSymbols[i] = BitVec.ofNat 8 i := by
  simp [allSymbols]

theorem matchSymbol_eq_some_iff {cb : Vector CbEntry 256} {acc : List Bool} {sym : Byte} :
    matchSymbol cb acc = some sym ↔
      codeOf cb sym = some acc ∧ ∀ r, codeOf cb r = some acc → sym.toNat ≤ r.toNat := by
  have hlt : ∀ r : Byte, r.toNat < allSymbols.length := fun r => allSymbols_length ▸ r.isLt
  have hget : ∀ r : Byte, allSymbols[r.toNat]'(hlt r) = r := fun r => by simp [allSymbols_getElem]
  simp only [matchSymbol, List.find?_eq_some_iff_getElem, beq_iff_eq, Bool.not_eq_true', beq_eq_false_iff_ne]
  refine and_congr_right fun _ => ⟨?_, fun hleast => ⟨sym.toNat, hlt sym, hget sym, fun j hj hcode => ?_⟩⟩
  · rintro ⟨i, hi, rfl, hbefore⟩ r hr
    have hi' : (allSymbols[i]).toNat = i := by
      rw [allSymbols_getElem, BitVec.toNat_ofNat, Nat.mod_eq_of_lt (hi.trans_eq allSymbols_length)]
    rw [hi']
    refine Nat.not_lt.1 fun hri => hbefore r.toNat hri ?_
    rwa [hget]
  · have hj' := hleast _ hcode
    rw [allSymbols_getElem, BitVec.toNat_ofNat, Nat.mod_eq_of_lt (hj.trans sym.isLt)] at hj'
    exact hj'.not_gt hj

/-- Bits no proper beginning of which is a code, and which are one, are a shortest match of the symbol found. -/
theorem shortestMatch_concat_iff {cb : Vector CbEntry 256} {acc : List Bool} {b : Bool} {sym : Byte} :
    ShortestMatch cb (acc ++ [b]) sym ↔ NoCodeBegins cb acc ∧ matchSymbol cb (acc ++ [b]) = some sym := by
  rw [matchSymbol_eq_some_iff]
  constructor
  · rintro ⟨-, hcode, hleast, hshort⟩
    refine ⟨fun p hp hne => hshort p (hp.trans (List.prefix_append _ _)) hne ?_, hcode, hleast⟩
    rintro rfl
    simpa using hp.length_le
  · rintro ⟨hacc, hcode, hleast⟩
    refine ⟨by simp, hcode, hleast, fun p hp hne hproper => hacc p ?_ hne⟩
    exact (List.prefix_concat_iff.1 hp).resolve_left hproper

/-! ### Every stream has a cut -/

/-- A stream with nothing but leftover bits. -/
theorem cutAtMatches_leftover {cb : Vector CbEntry 256} {rest : List Bool} (h : NoCodeBegins cb rest) :
    CutAtMatches cb rest [] rest :=
  ⟨rfl, fun _ hp => absurd hp List.not_mem_nil, h⟩

theorem cutAtMatches_cons_iff {cb : Vector CbEntry 256} {stream rest : List Bool} {x : List Bool × Byte}
    {parts : List (List Bool × Byte)} :
    CutAtMatches cb stream (x :: parts) rest ↔
      ∃ tail, stream = x.1 ++ tail ∧ ShortestMatch cb x.1 x.2 ∧ CutAtMatches cb tail parts rest := by
  constructor
  · rintro ⟨hstream, hparts, hrest⟩
    rw [List.map_cons, List.flatten_cons, List.append_assoc] at hstream
    exact ⟨_, hstream, hparts x List.mem_cons_self, rfl, fun p hp => hparts p (List.mem_cons_of_mem _ hp), hrest⟩
  · rintro ⟨tail, rfl, hx, rfl, hparts, hrest⟩
    exact ⟨by simp, List.forall_mem_cons.2 ⟨hx, hparts⟩, hrest⟩

/-- The cut exists, found bit by bit: the bits `acc` scanned since the last match begin with no code. -/
theorem exists_cutAtMatches {cb : Vector CbEntry 256} (stream : List Bool) {acc : List Bool}
    (hacc : NoCodeBegins cb acc) : ∃ parts rest, CutAtMatches cb (acc ++ stream) parts rest := by
  induction stream generalizing acc with
  | nil => exact ⟨[], acc, by simpa using cutAtMatches_leftover hacc⟩
  | cons b stream ih =>
    rw [List.append_cons]
    cases hm : matchSymbol cb (acc ++ [b]) with
    | none => exact ih (noCodeBegins_concat hacc (matchSymbol_eq_none_iff.1 hm))
    | some sym =>
      obtain ⟨parts, rest, hcut⟩ := ih (noCodeBegins_nil cb)
      exact ⟨(acc ++ [b], sym) :: parts, rest,
        cutAtMatches_cons_iff.2 ⟨stream, rfl, shortestMatch_concat_iff.2 ⟨hacc, hm⟩, hcut⟩⟩

/-! ### The loop follows the cut -/

/-- Bits no beginning of which is a code are only accumulated. -/
theorem bssDecLoop_scan {cb : Vector CbEntry 256} (cap : Nat) {q : List Bool} (rest : List Bool) (i : Nat)
    {acc : List Bool} (start : Nat) (out : List Byte) (h : NoCodeBegins cb (acc ++ q)) :
    bssDecLoop cb cap (q ++ rest) i acc start out = bssDecLoop cb cap rest (i + q.length) (acc ++ q) start out := by
  induction q generalizing i acc with
  | nil => simp
  | cons b q ih =>
    rw [List.append_cons] at h ⊢
    have hnone : matchSymbol cb (acc ++ [b]) = none :=
      matchSymbol_eq_none_iff.2 (h _ (List.prefix_append _ _) (by simp))
    rw [List.cons_append, bssDecLoop, hnone]
    dsimp only
    rw [ih _ h, List.length_cons, Nat.add_assoc, Nat.add_comm 1]

/-- A shortest match is emitted, or finds OBUF full. -/
theorem bssDecLoop_match {cb : Vector CbEntry 256} (cap : Nat) {c : List Bool} {sym : Byte}
    (h : ShortestMatch cb c sym) (rest : List Bool) (i start : Nat) (out : List Byte) :
    bssDecLoop cb cap (c ++ rest) i [] start out =
      if out.length = cap then .full
      else bssDecLoop cb cap rest (i + c.length) [] (i + c.length) (out ++ [sym]) := by
  obtain rfl | ⟨acc, b, rfl⟩ := List.eq_nil_or_concat' c
  · exact absurd rfl h.1
  · obtain ⟨hacc, hm⟩ := shortestMatch_concat_iff.1 h
    rw [List.append_assoc, bssDecLoop_scan cap _ _ _ _ (by simpa using hacc), List.nil_append, List.singleton_append,
      bssDecLoop, hm]
    simp [Nat.add_assoc]

/-- How the walk over a stream that stops before bit `stop` ends by its cut, after the symbols `out`. -/
def cutEnd (cap : Nat) (out : List Byte) (stop : Nat) (parts : List (List Bool × Byte)) (rest : List Bool) :
    DecodeEnd :=
  if cap < out.length + parts.length then .full
  else if rest = [] then .done (out ++ parts.map Prod.snd)
  else .noCode (out ++ parts.map Prod.snd) (stop - rest.length)

/-- The loop ends as the cut says. -/
theorem bssDecLoop_eq_cutEnd {cb : Vector CbEntry 256} {cap : Nat} {stream rest : List Bool}
    {parts : List (List Bool × Byte)} (h : CutAtMatches cb stream parts rest) (i : Nat) {out : List Byte}
    (hout : out.length ≤ cap) :
    bssDecLoop cb cap stream i [] i out = cutEnd cap out (i + stream.length) parts rest := by
  induction parts generalizing stream i out with
  | nil =>
    obtain ⟨hstream, -, hrest⟩ := h
    obtain rfl : stream = rest := hstream
    have hscan := bssDecLoop_scan cap [] i i out (acc := []) (q := stream) hrest
    rw [List.append_nil] at hscan
    simp [hscan, bssDecLoop, cutEnd, hout.not_gt]
  | cons x parts ih =>
    obtain ⟨tail, rfl, hx, htail⟩ := cutAtMatches_cons_iff.1 h
    rw [bssDecLoop_match cap hx]
    split
    next hfull => simp [cutEnd, hfull]
    next hroom =>
      rw [ih htail _ (by simp; omega)]
      simp [cutEnd, Nat.add_assoc, Nat.add_comm 1]

/-- BSS.DEC of a stream with a cut. -/
theorem exec_bssDec_of_cut {s : State} (hf : s.faulted = false) {parts : List (List Bool × Byte)} {rest : List Bool}
    (hcut : CutAtMatches s.cb s.bits parts rest) :
    exec .bssDec s = .next (finish s (storeDecoded s (cutEnd s.cfg.obufBytes [] s.bits.length parts rest))) := by
  refine (runGated_unfaulted (rule := fun s => storeDecoded s _) hf).trans ?_
  rw [bssDecLoop_eq_cutEnd hcut 0 (Nat.zero_le _), Nat.zero_add]

/-- Settles O27: the cut is found bit by bit, and the loop ends as the cut says. -/
theorem decodeFollowsShortestMatches : Obligations.DecodeFollowsShortestMatches := by
  refine fun s hf => ⟨exists_cutAtMatches s.bits (noCodeBegins_nil s.cb), fun parts rest hcut => ?_⟩
  rw [exec_bssDec_of_cut hf hcut]
  refine ⟨fun hfull => ?_, fun hroom hrest => ?_, fun hroom hrest => ?_⟩
  · simp [cutEnd, hfull, storeDecoded, State.refuse]
  · simp [cutEnd, hroom.not_gt, hrest, storeDecoded]
  · simp [cutEnd, hroom.not_gt, hrest, storeDecoded, State.fail]

end Sys2Proof.Machine
end

/-! PROOF. The round trip of the variable-length coder (`41_bitstream_serializer.md` R161): where no code begins
another, every code is a shortest match, so the codes of the input are the cut of its encoding. -/

section
namespace Sys2Proof.Machine

theorem codeOf_of_valid {cb : Vector CbEntry 256} {sym : Byte} (h : (cbEntry cb sym).valid = true) :
    codeOf cb sym = some (bitsOf (cbEntry cb sym).len.toNat (cbEntry cb sym).bits.toNat) :=
  if_pos h

/-- Codes have at least one bit (`10_state.md` R45). -/
theorem codeOf_ne_nil {cb : Vector CbEntry 256} (hlens : CodeLengthsOk cb) {sym : Byte} {c : List Bool}
    (h : codeOf cb sym = some c) : c ≠ [] := by
  obtain ⟨hvalid, hc⟩ := Option.ite_none_right_eq_some.1 h
  obtain rfl := Option.some.inj hc
  obtain ⟨-, hpos⟩ := hlens (cbEntry cb sym) (Vector.mem_toList_iff.2 (Vector.getElem_mem sym.isLt))
  rw [← List.length_pos_iff, bitsOf_length]
  exact hpos hvalid

/-- Where no code begins another symbol's, a code that begins a code is of the same symbol. -/
theorem PrefixFree.eq_of_prefix {cb : Vector CbEntry 256} (hfree : PrefixFree cb) {a b : Byte} {p q : List Bool}
    (hp : codeOf cb a = some p) (hq : codeOf cb b = some q) (h : p <+: q) : a = b :=
  by_contra fun hne => hfree a b hne p hp q hq h

theorem PrefixFree.shortestMatch {cb : Vector CbEntry 256} (hfree : PrefixFree cb) (hlens : CodeLengthsOk cb)
    {sym : Byte} {c : List Bool} (h : codeOf cb sym = some c) : ShortestMatch cb c sym := by
  refine ⟨codeOf_ne_nil hlens h, h, fun r hr => ?_, fun p hp _ hne r hr => ?_⟩
  · rw [hfree.eq_of_prefix h hr (List.prefix_refl c)]
  · obtain rfl := hfree.eq_of_prefix hr h hp
    exact hne (Option.some.inj (hr.symm.trans h))

/-- The bytes with their codes. -/
def codedBytes (cb : Vector CbEntry 256) (input : List Byte) : List (List Bool × Byte) :=
  input.map fun c => ((codeOf cb c).getD [], c)

theorem codedBytes_symbols (cb : Vector CbEntry 256) (input : List Byte) :
    (codedBytes cb input).map Prod.snd = input := by
  simp [codedBytes, Function.comp_def]

/-- The encoding of bytes that all have a code is cut into their codes, with nothing left over. -/
theorem encodeBytes_cutAtMatches {cb : Vector CbEntry 256} (hfree : PrefixFree cb) (hlens : CodeLengthsOk cb)
    {input : List Byte} (hvalid : ∀ c ∈ input, (cbEntry cb c).valid = true) :
    CutAtMatches cb (encodeBytes cb input) (codedBytes cb input) [] := by
  induction input with
  | nil => exact cutAtMatches_leftover (noCodeBegins_nil cb)
  | cons c input ih =>
    obtain ⟨hc, hinput⟩ := List.forall_mem_cons.1 hvalid
    refine cutAtMatches_cons_iff.2 ⟨encodeBytes cb input, List.flatMap_cons, ?_, ih hinput⟩
    dsimp only
    rw [codeOf_of_valid hc]
    exact hfree.shortestMatch hlens (codeOf_of_valid hc)

theorem succeedAll_cons {i : Instr} {rest : List Instr} {s t : State} (h : exec i s = .next t)
    (herr : t.err = some 0) : succeedAll (i :: rest) s = succeedAll rest t := by
  simp [succeedAll, h, herr]

/-- BSS.ENC onto an empty stream. -/
theorem exec_bssEnc_of_empty {s : State} (hf : s.faulted = false) (hempty : s.bits = [])
    (h : (encodeBytes s.cb s.inputBytes).length ≤ s.cfg.bitcap) :
    exec .bssEnc s = .next ({ s with bits := encodeBytes s.cb s.inputBytes }.answer 0
      (word32 (encodeBytes s.cb s.inputBytes).length)) := by
  have happend := appendBits_of_fits (add := encodeBytes s.cb s.inputBytes) (s := s) (by simpa [hempty] using h)
  rw [hempty, List.nil_append, List.length_nil, Nat.zero_add] at happend
  exact runGated_of_success hf happend

/-- BSS.DEC of an encoding gives the bytes back. -/
theorem exec_bssDec_encodeBytes {s : State} (hf : s.faulted = false) (hfree : PrefixFree s.cb)
    (hlens : CodeLengthsOk s.cb) {input : List Byte} (hvalid : ∀ c ∈ input, (cbEntry s.cb c).valid = true)
    (hbits : s.bits = encodeBytes s.cb input) (hroom : input.length ≤ s.cfg.obufBytes) :
    exec .bssDec s = .next ({ s with obuf := input }.answer 0 (word32 input.length)) := by
  have hcut := encodeBytes_cutAtMatches hfree hlens hvalid
  have hlen : (codedBytes s.cb input).length = input.length := List.length_map _
  rw [exec_bssDec_of_cut hf (hbits ▸ hcut)]
  simp [cutEnd, hlen, hroom.not_gt, storeDecoded, codedBytes_symbols]

/-- The three commands of the round trip, with the state they leave. -/
theorem succeedAll_clr_enc_dec {s : State} (hf : s.faulted = false) (hfree : PrefixFree s.cb)
    (hlens : CodeLengthsOk s.cb) (hvalid : ∀ c ∈ s.inputBytes, (cbEntry s.cb c).valid = true)
    (hfits : (encodeBytes s.cb s.inputBytes).length ≤ s.cfg.bitcap) (hroom : s.ilen.toNat ≤ s.cfg.obufBytes) :
    succeedAll [.bssClr, .bssEnc, .bssDec] s =
      some ({ s with bits := encodeBytes s.cb s.inputBytes, obuf := s.inputBytes,
                     cmdcnt := s.cmdcnt + 1 + 1 }.answer 0 s.ilen) := by
  have hdata : word32 s.inputBytes.length = s.ilen := by simp [word32]
  calc succeedAll [.bssClr, .bssEnc, .bssDec] s
      = succeedAll [.bssEnc, .bssDec] ({ s with bits := [] }.answer 0 0) :=
        succeedAll_cons (exec_bssClr hf) (answer_err _ _ _)
    _ = succeedAll [.bssDec] ({ s with bits := encodeBytes s.cb s.inputBytes, cmdcnt := s.cmdcnt + 1 }.answer 0
          (word32 (encodeBytes s.cb s.inputBytes).length)) :=
        succeedAll_cons (exec_bssEnc_of_empty (s := { s with bits := [] }.answer 0 0) hf rfl hfits) (answer_err _ _ _)
    _ = some ({ s with bits := encodeBytes s.cb s.inputBytes, obuf := s.inputBytes,
                       cmdcnt := s.cmdcnt + 1 + 1 }.answer 0 (word32 s.inputBytes.length)) :=
        succeedAll_cons (exec_bssDec_encodeBytes
          (s := { s with bits := encodeBytes s.cb s.inputBytes, cmdcnt := s.cmdcnt + 1 }.answer 0 _)
          hf hfree hlens hvalid rfl (by rwa [inputBytes_length])) (answer_err _ _ _)
    _ = _ := by rw [hdata]

/-- Settles O28: the cut of the encoding is the input's codes. -/
theorem variableLengthRoundTrip : Obligations.VariableLengthRoundTrip := by
  intro s hf hlens hfree hvalid hfits hroom
  refine ⟨_, succeedAll_clr_enc_dec hf hfree hlens hvalid hfits hroom, ?_, inputBytes_length s, ?_⟩
  · simp [State.answer, BitVec.add_assoc]
  · exact answer_data s 0 s.ilen

end Sys2Proof.Machine
end

/-! PROOF. The payload artifact (`41_bitstream_serializer.md` R163 to R166): BSS.PACK writes the stream's bytes after
its length, and BSS.UNPACK reads the length and the bits back. -/

section
namespace Sys2Proof.Machine

/-! ### BSS.PACK -/

theorem bssPackRule_of_fits {hdr : Bool} {s : State} (h : (packed hdr s.bits).length ≤ s.cfg.obufBytes) :
    bssPackRule hdr s = .success { s with obuf := packed hdr s.bits } (word32 (packed hdr s.bits).length) :=
  if_neg (Nat.not_lt.2 h)

theorem bssPackRule_of_overflow {hdr : Bool} {s : State} (h : s.cfg.obufBytes < (packed hdr s.bits).length) :
    bssPackRule hdr s = .reject .capacity :=
  if_pos h

theorem packed_header_length (bits : List Bool) : (packed true bits).length = 4 + (bits.length + 7) / 8 := by
  simp [packed, bytesFor]

theorem packed_bare_length (bits : List Bool) : (packed false bits).length = (bits.length + 7) / 8 := by
  simp [packed, bytesFor]

/-- The byte of a 32-bit length from bit k on. -/
theorem lengthByte_eq (n : Nat) {k : Nat} (hk : k ≤ 24) :
    (word32 n).extractLsb' k 8 = BitVec.ofNat 8 (n / 2 ^ k) := by
  refine BitVec.eq_of_getLsbD_eq fun i hi => ?_
  rw [BitVec.getLsbD_extractLsb', word32, BitVec.getLsbD_ofNat, BitVec.getLsbD_ofNat, Nat.testBit_div_two_pow,
    decide_eq_true (show k + i < 32 by omega), Bool.true_and, Nat.add_comm]

/-- The header is the length's four bytes, most significant first. -/
theorem lengthHeader_word32 (n : Nat) :
    lengthHeader (word32 n) = [BitVec.ofNat 8 (n / 2 ^ 24), BitVec.ofNat 8 (n / 2 ^ 16), BitVec.ofNat 8 (n / 2 ^ 8),
      BitVec.ofNat 8 n] := by
  simp [lengthHeader, lengthByte_eq]

/-- Settles O29: what is packed has the artifact's length, which the capacity is compared with. -/
theorem packWritesTheArtifact : Obligations.PackWritesTheArtifact := by
  rintro s hf n rfl
  rw [← lengthHeader_word32, ← packed_header_length, ← packed_bare_length]
  exact ⟨fun h => runGated_of_success hf (bssPackRule_of_fits h),
    fun h => runGated_of_reject hf (bssPackRule_of_overflow h),
    fun h => runGated_of_success hf (bssPackRule_of_fits h),
    fun h => runGated_of_reject hf (bssPackRule_of_overflow h)⟩

/-! ### BSS.UNPACK -/

theorem unpackBits_of_overflow {n off : Nat} {s : State} (h : s.cfg.bitcap < n) :
    unpackBits n off s = .reject .capacity :=
  if_pos h

theorem unpackBits_of_badLen {n off : Nat} {s : State} (hn : n ≤ s.cfg.bitcap)
    (h : s.ilen.toNat ≠ off + (n + 7) / 8) : unpackBits n off s = .reject .badLen := by
  rw [unpackBits, if_neg (Nat.not_lt.2 hn)]
  exact if_pos h

theorem unpackBits_of_fits {n off : Nat} {s : State} (hn : n ≤ s.cfg.bitcap)
    (h : s.ilen.toNat = off + (n + 7) / 8) :
    unpackBits n off s = .success { s with bits := fromBytes (s.inputBytes.drop off) n } (word32 n) := by
  rw [unpackBits, if_neg (Nat.not_lt.2 hn)]
  exact if_neg (not_not.2 h)

/-- With a whole header in the input, its number is the bit length. -/
theorem bssUnpackRule_of_header {s : State} (h : 4 ≤ s.ilen.toNat) :
    bssUnpackRule true 0 s = unpackBits (bigEndian (s.inputBytes.take 4)) 4 s :=
  if_neg (Nat.not_lt.2 h)

theorem bssUnpackRule_bare (nbits : Word32) (s : State) :
    bssUnpackRule false nbits s = unpackBits nbits.toNat 0 s := rfl

theorem bigEndian_four (a b c d : Byte) :
    bigEndian [a, b, c, d] = a.toNat * 2 ^ 24 + b.toNat * 2 ^ 16 + c.toNat * 2 ^ 8 + d.toNat := by
  simp only [bigEndian, List.foldl_cons, List.foldl_nil]
  omega

theorem inputBytes_take_four {s : State} (h : 4 ≤ s.ilen.toNat) :
    s.inputBytes.take 4 = [s.ibufRead 0, s.ibufRead 1, s.ibufRead 2, s.ibufRead 3] := by
  rw [State.inputBytes, ← List.map_take, List.take_range, Nat.min_eq_left h]
  rfl

/-- Settles O30: the two forms differ in where the length stands and how many bytes it takes. -/
theorem unpackReadsTheArtifact : Obligations.UnpackReadsTheArtifact := by
  refine fun s hf => ⟨fun h => runGated_of_reject hf (if_pos h), fun n hn hheader => ?_, fun nbits => ?_⟩
  · have hrule : bssUnpackRule true 0 s = unpackBits n 4 s := by
      rw [bssUnpackRule_of_header hheader, inputBytes_take_four hheader, bigEndian_four, hn]
    exact ⟨fun h => runGated_of_reject hf (hrule.trans (unpackBits_of_overflow h)),
      fun h hlen => runGated_of_reject hf (hrule.trans (unpackBits_of_badLen h hlen)),
      fun h hlen => runGated_of_success hf (hrule.trans (unpackBits_of_fits h hlen))⟩
  · have hrule := bssUnpackRule_bare nbits s
    refine ⟨fun h => runGated_of_reject hf (hrule.trans (unpackBits_of_overflow h)),
      fun h hlen => runGated_of_reject hf (hrule.trans (unpackBits_of_badLen h (by rwa [Nat.zero_add]))),
      fun h hlen => ?_⟩
    have hsuccess := runGated_of_success hf (hrule.trans (unpackBits_of_fits h (by rwa [Nat.zero_add])))
    rwa [List.drop_zero, word32, BitVec.ofNat_toNat, BitVec.setWidth_eq] at hsuccess

/-- A length of 32 bits is the number its header stands for. -/
theorem bigEndian_lengthHeader {n : Nat} (h : n < 2 ^ 32) : bigEndian (lengthHeader (word32 n)) = n := by
  rw [lengthHeader_word32, bigEndian_four]
  simp only [BitVec.toNat_ofNat]
  omega

/-- BSS.PACK 1 that succeeds left the artifact in OBUF. -/
theorem obuf_of_bssPack {s t : State} (hf : s.faulted = false) (h : exec (.bssPack true) s = .next t)
    (herr : t.err = some 0) : t.obuf = packed true s.bits := by
  by_cases hroom : (packed true s.bits).length ≤ s.cfg.obufBytes
  · obtain rfl := Host.Outcome.next.inj (h.symm.trans (runGated_of_success hf (bssPackRule_of_fits hroom)))
    rfl
  · obtain rfl := Host.Outcome.next.inj
      (h.symm.trans (runGated_of_reject hf (bssPackRule_of_overflow (Nat.not_le.1 hroom))))
    simp [State.refuse, RejectCode.byte] at herr

/-- Settles O31: the header gives the length back, and `fromBytes` of the rest the bits. -/
theorem artifactGivesTheStreamBack : Obligations.ArtifactGivesTheStreamBack := by
  intro s t u hf hlen hpack herr huf hinput hcap
  have hart : u.inputBytes = lengthHeader (word32 s.bits.length) ++ toBytes s.bits :=
    hinput.trans (obuf_of_bssPack hf hpack herr)
  have hilen : u.ilen.toNat = 4 + (s.bits.length + 7) / 8 := by
    rw [← inputBytes_length, hart, List.length_append, lengthHeader_length, toBytes_length, bytesFor]
  have hrule := bssUnpackRule_of_header (s := u) (by omega)
  rw [hart, List.take_left' (lengthHeader_length _), bigEndian_lengthHeader hlen, unpackBits_of_fits hcap hilen, hart,
    List.drop_left' (lengthHeader_length _), fromBytes_toBytes] at hrule
  exact runGated_of_success huf hrule

end Sys2Proof.Machine
end

/-! PROOF. The heap keeps its order (`42_huffman_tree_builder.md` R181 to R184): the key order is the order of a number,
so that the two sifting loops are comparisons of numbers. -/

section
namespace Sys2Proof.Machine

/-! ### The key order as an order of numbers -/

/-- A key as one number: keys compare as their ranks do (`42_huffman_tree_builder.md` R181). -/
def HeapKey.rank (k : HeapKey) : Nat := k.weight.toNat * 2 ^ 16 + k.id.toNat

theorem HeapKey.lt_iff_rank {a b : HeapKey} : a.lt b = true ↔ a.rank < b.rank := by
  have ha := a.id.isLt
  have hb := b.id.isLt
  simp only [HeapKey.lt, HeapKey.rank, Bool.or_eq_true, Bool.and_eq_true, decide_eq_true_eq, beq_iff_eq,
    BitVec.lt_def, ← BitVec.toNat_inj]
  omega

theorem HeapKey.lt_eq_false_iff {a b : HeapKey} : a.lt b = false ↔ b.rank ≤ a.rank := by
  rw [← Bool.not_eq_true, HeapKey.lt_iff_rank, not_lt]

theorem HeapKey.eq_of_rank_eq {a b : HeapKey} (h : a.rank = b.rank) : a = b := by
  have ha := a.id.isLt
  have hb := b.id.isLt
  obtain ⟨wa, ia⟩ := a
  obtain ⟨wb, ib⟩ := b
  simp only [HeapKey.rank] at h ha hb
  have hw : wa = wb := BitVec.eq_of_toNat_eq (by omega)
  have hi : ia = ib := BitVec.eq_of_toNat_eq (by omega)
  rw [hw, hi]

/-- The rank of the key in slot i, 0 when the slot is not in use. -/
def rankAt (h : List HeapKey) (i : Nat) : Nat := (h[i]?.map HeapKey.rank).getD 0

theorem rankAt_of_getElem? {h : List HeapKey} {i : Nat} {k : HeapKey} (e : h[i]? = some k) : rankAt h i = k.rank := by
  simp [rankAt, e]

theorem heapLess_iff {h : List HeapKey} {i j : Nat} :
    heapLess h i j = true ↔ i < h.length ∧ j < h.length ∧ rankAt h i < rankAt h j := by
  by_cases hi : i < h.length
  · by_cases hj : j < h.length
    · simp [heapLess, rankAt, hi, hj, HeapKey.lt_iff_rank]
    · simp [heapLess, hj]
  · simp [heapLess, hi]

/-- The heap property says that no rank is below its parent's. -/
theorem heapOrdered_iff {h : List HeapKey} :
    HeapOrdered h ↔ ∀ i < h.length, rankAt h ((i - 1) / 2) ≤ rankAt h i := by
  refine forall₂_congr fun i hi => ?_
  have hp : (i - 1) / 2 < h.length := by omega
  rw [← Bool.not_eq_true, heapLess_iff]
  simp [hi, hp]

theorem heapSwap_eq {h : List HeapKey} {i j : Nat} (hi : i < h.length) (hj : j < h.length) :
    heapSwap h i j = (h.set i h[j]).set j h[i] := by
  simp [heapSwap, hi, hj]

theorem rankAt_heapSwap_right {h : List HeapKey} {i j : Nat} (hi : i < h.length) (hj : j < h.length) :
    rankAt (heapSwap h i j) j = rankAt h i := by
  simp [heapSwap_eq hi hj, rankAt, hi, hj]

theorem rankAt_heapSwap_left {h : List HeapKey} {i j : Nat} (hi : i < h.length) (hj : j < h.length) (hij : i ≠ j) :
    rankAt (heapSwap h i j) i = rankAt h j := by
  simp [heapSwap_eq hi hj, rankAt, hij.symm, hi, hj]

theorem rankAt_heapSwap_of_ne {h : List HeapKey} {i j k : Nat} (hi : i < h.length) (hj : j < h.length) (hki : k ≠ i)
    (hkj : k ≠ j) : rankAt (heapSwap h i j) k = rankAt h k := by
  simp [heapSwap_eq hi hj, rankAt, hki.symm, hkj.symm]

/-! ### Pushing a key -/

/-- The heap property but for slot i, whose key may be less than its parent's but whose children are not. -/
def OrderedAbove (h : List HeapKey) (i : Nat) : Prop :=
  (∀ j < h.length, j ≠ i → rankAt h ((j - 1) / 2) ≤ rankAt h j) ∧
  ∀ j < h.length, (j - 1) / 2 = i → rankAt h ((i - 1) / 2) ≤ rankAt h j

theorem OrderedAbove.heapOrdered {h : List HeapKey} {i : Nat} (hord : OrderedAbove h i)
    (hi : rankAt h ((i - 1) / 2) ≤ rankAt h i) : HeapOrdered h := by
  refine heapOrdered_iff.2 fun j hj => ?_
  by_cases hji : j = i
  · exact hji ▸ hi
  · exact hord.1 j hj hji

/-- Swapped with its greater parent, the key may be out of order at the parent's slot only. -/
theorem OrderedAbove.swap {h : List HeapKey} {i p : Nat} (hord : OrderedAbove h i) (hi : i < h.length)
    (hp : p = (i - 1) / 2) (hpi : p ≠ i) (hless : rankAt h i < rankAt h p) : OrderedAbove (heapSwap h i p) p := by
  have hpl : p < h.length := by omega
  have hati := rankAt_heapSwap_left hi hpl hpi.symm
  have hatp := rankAt_heapSwap_right hi hpl
  have hother : ∀ k, k ≠ i → k ≠ p → rankAt (heapSwap h i p) k = rankAt h k := fun k =>
    rankAt_heapSwap_of_ne hi hpl
  obtain ⟨hparent, hgrand⟩ := hord
  rw [← hp] at hgrand
  constructor
  · intro j hj hjp
    rw [heapSwap_length] at hj
    by_cases hji : j = i
    · rw [hji, ← hp, hati, hatp]
      exact hless.le
    · rw [hother j hji hjp]
      by_cases hqi : (j - 1) / 2 = i
      · rw [hqi, hati]
        exact hgrand j hj hqi
      · have hj := hparent j hj hji
        by_cases hqp : (j - 1) / 2 = p
        · rw [hqp] at hj ⊢
          exact hatp ▸ hless.le.trans hj
        · rwa [hother _ hqi hqp]
  · intro j hj hjp
    rw [heapSwap_length] at hj
    have hup : rankAt (heapSwap h i p) ((p - 1) / 2) ≤ rankAt h p := by
      by_cases hp0 : (p - 1) / 2 = p
      · rw [hp0, hatp]
        exact hless.le
      · rw [hother _ (by omega) hp0]
        exact hparent p hpl hpi
    by_cases hji : j = i
    · rwa [hji, hati]
    · by_cases hjp' : j = p
      · subst hjp'
        rw [hjp]
      · rw [hother j hji hjp']
        exact hup.trans (hjp ▸ hparent j hj hji)

theorem siftUp_ordered (fuel : Nat) {h : List HeapKey} {i : Nat} (hi : i < h.length) (hfuel : i ≤ fuel)
    (hord : OrderedAbove h i) : HeapOrdered (siftUp fuel h i) := by
  induction fuel generalizing h i with
  | zero =>
    obtain rfl : i = 0 := by omega
    exact hord.heapOrdered le_rfl
  | succ fuel ih =>
    unfold siftUp
    split_ifs with h0 hless
    · subst h0
      exact hord.heapOrdered le_rfl
    · obtain ⟨-, hp, hlt⟩ := heapLess_iff.1 hless
      exact ih (by simpa using hp) (by omega) (hord.swap hi rfl (by omega) hlt)
    · refine hord.heapOrdered (not_lt.1 fun hlt => hless (heapLess_iff.2 ⟨hi, ?_, hlt⟩))
      omega

theorem rankAt_append_left {h l : List HeapKey} {i : Nat} (hi : i < h.length) : rankAt (h ++ l) i = rankAt h i := by
  rw [rankAt, List.getElem?_append_left hi, rankAt]

/-- `heap_push` keeps the heap property. -/
theorem heapPush_ordered {h : List HeapKey} (k : HeapKey) (hord : HeapOrdered h) : HeapOrdered (heapPush h k) := by
  refine siftUp_ordered _ (by simp) le_rfl ⟨fun j hj hne => ?_, fun j hj hp => ?_⟩
  · have hj' : j < h.length := by
      rw [List.length_append, List.length_singleton] at hj
      omega
    rw [rankAt_append_left hj', rankAt_append_left (by omega)]
    exact heapOrdered_iff.1 hord j hj'
  · rw [List.length_append, List.length_singleton] at hj
    obtain ⟨rfl, h0⟩ : j = 0 ∧ h.length = 0 := by omega
    rw [h0]

/-! ### Popping the least key -/

/-- The heap property but for slot i, whose key may be greater than its children's, while they are not less than the
key above it. -/
def OrderedBelow (h : List HeapKey) (i : Nat) : Prop :=
  (∀ j < h.length, j ≠ 0 → (j - 1) / 2 ≠ i → rankAt h ((j - 1) / 2) ≤ rankAt h j) ∧
  (i ≠ 0 → ∀ j < h.length, (j - 1) / 2 = i → rankAt h ((i - 1) / 2) ≤ rankAt h j)

/-- `leastChild` answers slot i or a child with a key that none of the three has a lesser one than. -/
theorem leastChild_spec {h : List HeapKey} {i : Nat} (hi : i < h.length) :
    leastChild h i < h.length ∧
    (leastChild h i ≠ i → i = (leastChild h i - 1) / 2 ∧ i < leastChild h i) ∧
    rankAt h (leastChild h i) ≤ rankAt h i ∧
    ∀ j < h.length, j ≠ 0 → (j - 1) / 2 = i → rankAt h (leastChild h i) ≤ rankAt h j := by
  have hchild : ∀ j, j ≠ 0 → (j - 1) / 2 = i → j = 2 * i + 1 ∨ j = 2 * i + 2 := by omega
  simp only [leastChild, heapLess_iff]
  grind

/-- Swapped with the least of its children, the key may be out of order at that child's slot only. -/
theorem OrderedBelow.swap {h : List HeapKey} {i m : Nat} (hord : OrderedBelow h i) (hm : m < h.length) (him : i < m)
    (hpar : i = (m - 1) / 2) (hle : rankAt h m ≤ rankAt h i)
    (hleast : ∀ j < h.length, j ≠ 0 → (j - 1) / 2 = i → rankAt h m ≤ rankAt h j) :
    OrderedBelow (heapSwap h i m) m := by
  have hi := him.trans hm
  have hati := rankAt_heapSwap_left hi hm him.ne
  have hatm := rankAt_heapSwap_right hi hm
  have hother : ∀ k, k ≠ i → k ≠ m → rankAt (heapSwap h i m) k = rankAt h k := fun k =>
    rankAt_heapSwap_of_ne hi hm
  obtain ⟨hparent, hgrand⟩ := hord
  constructor
  · intro j hj h0 hqm
    rw [heapSwap_length] at hj
    by_cases hqi : (j - 1) / 2 = i
    · rw [hqi, hati]
      by_cases hjm : j = m
      · rwa [hjm, hatm]
      · rw [hother j (by omega) hjm]
        exact hleast j hj h0 hqi
    · rw [hother _ hqi hqm]
      by_cases hji : j = i
      · rw [hji, hati]
        exact hgrand (hji ▸ h0) m hm hpar.symm
      · rw [hother j hji (fun hjm => hqi (by rw [hjm, hpar]))]
        exact hparent j hj h0 hqi
  · intro h0 j hj hqm
    rw [heapSwap_length] at hj
    rw [← hpar, hati, hother j (by omega) (by omega), ← hqm]
    exact hparent j hj (by omega) (by omega)

theorem siftDown_ordered (fuel : Nat) {h : List HeapKey} {i : Nat} (hi : i < h.length) (hfuel : h.length ≤ i + fuel)
    (hord : OrderedBelow h i) : HeapOrdered (siftDown fuel h i) := by
  induction fuel generalizing h i with
  | zero => omega
  | succ fuel ih =>
    obtain ⟨hm, hplace, hle, hleast⟩ := leastChild_spec hi
    unfold siftDown
    split_ifs with hstop
    · refine heapOrdered_iff.2 fun j hj => ?_
      rcases eq_or_ne j 0 with rfl | h0
      · exact le_rfl
      · by_cases hji : (j - 1) / 2 = i
        · exact hji ▸ hstop ▸ hleast j hj h0 hji
        · exact hord.1 j hj h0 hji
    · obtain ⟨hpar, hlt⟩ := hplace hstop
      exact ih (by simpa using hm) (by rw [heapSwap_length]; omega) (hord.swap hm hlt hpar hle hleast)

/-- In an ordered heap no key is less than the key of slot 0. -/
theorem rankAt_zero_le {h : List HeapKey} (hord : HeapOrdered h) (i : Nat) (hi : i < h.length) :
    rankAt h 0 ≤ rankAt h i := by
  induction i using Nat.strong_induction_on with
  | _ i ih =>
    rcases eq_or_ne i 0 with rfl | h0
    · exact le_rfl
    · exact (ih ((i - 1) / 2) (by omega) (by omega)).trans (heapOrdered_iff.1 hord i hi)

/-- The key `heap_pop` takes is a least one. -/
theorem heapPop_least {h h' : List HeapKey} {k : HeapKey} (e : heapPop h = some (k, h')) (hord : HeapOrdered h) :
    ∀ x ∈ h, k.rank ≤ x.rank := by
  intro x hx
  obtain ⟨i, hi, rfl⟩ := List.getElem_of_mem hx
  have hk : h[0]? = some k := List.head?_eq_getElem? ▸ (heapPop_perm e).1
  rw [← rankAt_of_getElem? hk, ← rankAt_of_getElem? (List.getElem?_eq_getElem hi)]
  exact rankAt_zero_le hord i hi

/-- `heap_pop` keeps the heap property. -/
theorem heapPop_ordered {h h' : List HeapKey} {k : HeapKey} (e : heapPop h = some (k, h')) (hord : HeapOrdered h) :
    HeapOrdered h' := by
  match h, e with
  | r :: tail, e =>
    unfold heapPop at e
    dsimp only at e
    split at e
    · cases e
      exact fun i hi => absurd hi (Nat.not_lt_zero i)
    · rename_i last hlast
      cases e
      obtain ⟨ys, rfl⟩ := List.getLast?_eq_some_iff.1 hlast
      rw [List.dropLast_concat]
      have hsame : ∀ j, j ≠ 0 → j < (last :: ys).length →
          rankAt (last :: ys) j = rankAt (k :: (ys ++ [last])) j := by
        intro j h0 hj
        obtain ⟨j, rfl⟩ := Nat.exists_eq_succ_of_ne_zero h0
        simp only [rankAt, List.getElem?_cons_succ]
        rw [List.getElem?_append_left (by simpa using hj)]
      refine siftDown_ordered _ (by simp) (by simp) ⟨fun j hj h0 hp => ?_, fun h0 => absurd rfl h0⟩
      rw [hsame j h0 hj, hsame _ hp (by omega)]
      refine heapOrdered_iff.1 hord j (hj.trans ?_)
      simp

/-- Two pops from an ordered heap with at least two keys take the two least keys, the lesser first. -/
theorem heapPop_two_least {h h1 h2 : List HeapKey} {x y : HeapKey} (hx : heapPop h = some (x, h1))
    (hy : heapPop h1 = some (y, h2)) (hord : HeapOrdered h) :
    h.Perm (x :: y :: h2) ∧ x.rank ≤ y.rank ∧ (∀ k ∈ h2, y.rank ≤ k.rank) ∧ HeapOrdered h2 := by
  have hperm1 := (heapPop_perm hx).2
  have hperm2 := (heapPop_perm hy).2
  have hord1 := heapPop_ordered hx hord
  refine ⟨hperm1.trans (hperm2.cons x), ?_, ?_, heapPop_ordered hy hord1⟩
  · exact heapPop_least hx hord y (by simp [hperm1.mem_iff, hperm2.mem_iff])
  · exact fun k hk => heapPop_least hy hord1 k (by simp [hperm2.mem_iff, hk])

end Sys2Proof.Machine
end

/-! PROOF. The leaf table: HTB.LOAD adds one leaf (`42_huffman_tree_builder.md` R192), HTB.COUNT one for each symbol
that occurs (R196). -/

section
namespace Sys2Proof.Machine

/-! ### HTB.LOAD -/

theorem htbLoadRule_of_closed {s : State} (sym : Byte) (weight : Word32) (h : s.phase ≠ .load) :
    htbLoadRule sym weight s = .reject .state :=
  if_pos h

theorem any_leaf_sym_iff {s : State} {sym : Byte} :
    ((s.nodes.take s.nleaf).any fun n => n.sym == sym) = true ↔ ∃ n ∈ s.leaves, n.sym = sym := by
  simp [State.leaves]

theorem htbLoadRule_of_dup {s : State} {sym : Byte} (weight : Word32) (h : s.phase = .load)
    (hdup : ∃ n ∈ s.leaves, n.sym = sym) : htbLoadRule sym weight s = .reject .dupSym := by
  rw [htbLoadRule, if_neg (not_not.2 h), if_pos (any_leaf_sym_iff.2 hdup)]

theorem htbLoadRule_of_new {s : State} {sym : Byte} (weight : Word32) (h : s.phase = .load)
    (hnew : ∀ n ∈ s.leaves, n.sym ≠ sym) :
    htbLoadRule sym weight s = .success (s.addLeaf sym (weight.setWidth 40)) (word32 s.nleaf) := by
  rw [htbLoadRule, if_neg (not_not.2 h), if_neg]
  exact any_leaf_sym_iff.not.2 fun ⟨n, hn, e⟩ => hnew n hn e

/-- Settles O32: past its two checks HTB.LOAD adds the leaf. -/
theorem loadAddsALeaf : Obligations.LoadAddsALeaf := by
  intro s sym weight hf
  refine ⟨fun h => ?_, fun h hdup => ?_, fun h hnew => ?_⟩
  · exact runGated_of_reject hf (htbLoadRule_of_closed sym weight h)
  · exact runGated_of_reject hf (htbLoadRule_of_dup weight h hdup)
  · have hweight : BitVec.ofNat 40 weight.toNat = weight.setWidth 40 := by simp
    rw [hweight]
    exact runGated_of_success hf (htbLoadRule_of_new weight h hnew)

/-! ### The order in which HTB.COUNT loads the symbols -/

/-- `a` is loaded before `b` in order 1: it occurs more often, or as often and is the smaller symbol. -/
def MoreFrequent (input : List Byte) (a b : Byte) : Prop :=
  input.count b < input.count a ∨ (input.count b = input.count a ∧ a.toNat < b.toNat)

/-- Order 1 is the stable sort of order 0 by count. -/
theorem countOrder_true (input : List Byte) :
    countOrder true input = (countOrder false input).insertionSort fun a b => input.count b ≤ input.count a := rfl

theorem mem_countOrder_false {input : List Byte} {c : Byte} : c ∈ countOrder false input ↔ 0 < input.count c := by
  have hall : c ∈ (List.range 256).map (BitVec.ofNat 8) :=
    List.mem_map.2 ⟨c.toNat, List.mem_range.2 c.isLt, BitVec.ofNat_toNat 8 c⟩
  rw [countOrder, if_neg Bool.false_ne_true, List.mem_filter, decide_eq_true_eq]
  exact and_iff_right hall

theorem mem_countOrder {order : Bool} {input : List Byte} {c : Byte} :
    c ∈ countOrder order input ↔ 0 < input.count c := by
  cases order with
  | false => exact mem_countOrder_false
  | true => rw [countOrder_true, List.mem_insertionSort, mem_countOrder_false]

theorem countOrder_false_ascending (input : List Byte) :
    (countOrder false input).Pairwise fun a b => a.toNat < b.toNat := by
  refine List.Pairwise.filter _ (List.pairwise_map.2 ?_)
  refine List.pairwise_lt_range.imp_of_mem fun {i j} hi hj hij => ?_
  rw [List.mem_range] at hi hj
  simpa [Nat.mod_eq_of_lt hi, Nat.mod_eq_of_lt hj] using hij

/-- Inserting a smaller symbol than all there are keeps order 1: it goes before those of its own count. -/
theorem orderedInsert_moreFrequent {input l : List Byte} {a : Byte} (hl : l.Pairwise (MoreFrequent input))
    (ha : ∀ b ∈ l, a.toNat < b.toNat) :
    (l.orderedInsert (fun a b => input.count b ≤ input.count a) a).Pairwise (MoreFrequent input) := by
  induction l with
  | nil => exact List.pairwise_singleton _ _
  | cons b l ih =>
    obtain ⟨hb, htail⟩ := List.pairwise_cons.1 hl
    obtain ⟨hab, hal⟩ := List.forall_mem_cons.1 ha
    rw [List.orderedInsert_cons]
    split_ifs with hcount
    · refine List.pairwise_cons.2 ⟨List.forall_mem_cons.2 ⟨?_, fun x hx => ?_⟩, hl⟩
      · unfold MoreFrequent
        omega
      · have hbx := hb x hx
        have hax := hal x hx
        unfold MoreFrequent at hbx ⊢
        omega
    · refine List.pairwise_cons.2 ⟨fun x hx => ?_, ih htail hal⟩
      rcases (List.mem_orderedInsert _).1 hx with rfl | hx
      · exact .inl (not_le.1 hcount)
      · exact hb x hx

theorem countOrder_true_moreFrequent (input : List Byte) :
    (countOrder true input).Pairwise (MoreFrequent input) := by
  rw [countOrder_true]
  have hasc := countOrder_false_ascending input
  generalize countOrder false input = syms at hasc
  induction hasc with
  | nil => exact .nil
  | cons ha _ ih => exact orderedInsert_moreFrequent ih fun b hb => ha b ((List.mem_insertionSort _).1 hb)

/-! ### HTB.COUNT -/

/-- The leaves of HTB.COUNT one after another: the records are appended, and the keys pushed, in list order. -/
theorem foldl_addLeaf (count : Byte → Weight) (syms : List Byte) (s : State) :
    syms.foldl (fun t sym => t.addLeaf sym (count sym)) s =
      { s with nodes := s.nodes ++ syms.map fun sym => leafNode sym (count sym),
               nleaf := s.nleaf + syms.length,
               heap := ((syms.zipIdx s.nleaf).map fun (p : Byte × Nat) =>
                 (⟨count p.1, BitVec.ofNat 16 p.2⟩ : HeapKey)).foldl heapPush s.heap } := by
  induction syms generalizing s with
  | nil => simp
  | cons sym syms ih =>
    rw [List.foldl_cons, ih]
    simp [State.addLeaf, Nat.add_assoc, Nat.add_comm 1]

/-- Settles O33: the symbols are those of the command's own list, loaded into the cleared builder. -/
theorem countLoadsTheTable : Obligations.CountLoadsTheTable := by
  intro s order hf
  refine ⟨countOrder order s.inputBytes, fun c => mem_countOrder, ?_, ?_, ?_⟩
  · rintro rfl
    exact countOrder_false_ascending s.inputBytes
  · rintro rfl
    exact countOrder_true_moreFrequent s.inputBytes
  · refine (runGated_of_success hf rfl).trans ?_
    rw [foldl_addLeaf]
    simp [State.clearTable, leafNode]

end Sys2Proof.Machine
end

/-! PROOF. HTB.STEP (`42_huffman_tree_builder.md` R198): the two keys it takes out are the two least. -/

section
namespace Sys2Proof.Machine

theorem htbStepRule_of_refused {s : State} (h : s.phase = .built ∨ s.heap.length < 2) :
    htbStepRule s = .reject .state := by
  unfold htbStepRule
  split_ifs with hbuilt
  · rfl
  · rfl
  · exact absurd h (by tauto)

theorem htbStepRule_of_merge {s : State} (hbuilt : s.phase ≠ .built) (hheap : 2 ≤ s.heap.length) :
    htbStepRule s = .success s.mergeOnce (word32 s.nodes.length) := by
  rw [htbStepRule, if_neg hbuilt, if_neg (Nat.not_lt.2 hheap)]

theorem exec_htbStep {s : State} (hf : s.faulted = false) (hbuilt : s.phase ≠ .built) (hheap : 2 ≤ s.heap.length) :
    exec .htbStep s = .next (s.mergeOnce.answer 0 (word32 s.nodes.length)) :=
  runGated_of_success hf (htbStepRule_of_merge hbuilt hheap)

/-- Settles O35: the state is that of one merge, and the order of the keys that of two pops. -/
theorem stepMergesTheTwoLeast : Obligations.StepMergesTheTwoLeast := by
  intro s hf
  refine ⟨fun h => runGated_of_reject hf (htbStepRule_of_refused h), fun hbuilt hheap hord => ?_⟩
  obtain ⟨x, y, h1, h2, hx, hy, hmerge⟩ := mergeOnce_two hheap
  obtain ⟨hperm, hxy, hleast, hord2⟩ := heapPop_two_least hx hy hord
  refine ⟨x, y, h1, h2, hx, hy, hperm, HeapKey.lt_eq_false_iff.2 hxy, fun k hk => ?_, ?_, heapPush_ordered _ hord2⟩
  · have hyk := hleast k hk
    exact ⟨HeapKey.lt_eq_false_iff.2 (hxy.trans hyk), HeapKey.lt_eq_false_iff.2 hyk⟩
  · rw [exec_htbStep hf hbuilt hheap, hmerge]
    rfl

end Sys2Proof.Machine
end

/-! PROOF. The bounds and the merges of the builder (`10_state.md` R40, `42_huffman_tree_builder.md` R194, R199): a
table of at most 256 leaves of 32-bit weights fits the arena and the weights, and one merge keeps the invariants. -/

section
namespace Sys2Proof.Machine

/-! ### Bounds -/

theorem BuilderOk.leavesOk {s : State} (h : BuilderOk s) : LeavesOk s := h.1

theorem BuilderOk.countsOk {s : State} (h : BuilderOk s) : CountsOk s := h.2.1

theorem leaves_length {s : State} (h : LeavesOk s) : s.leaves.length = s.nleaf :=
  List.length_take_of_le h.1

/-- The leaves have distinct byte symbols, so there are at most 256. -/
theorem nleaf_le {s : State} (h : LeavesOk s) : s.nleaf ≤ 256 := by
  obtain ⟨-, -, hsyms, -⟩ := id h
  have hcard := (hsyms.map (f := BitVec.toFin) fun a b => BitVec.eq_of_toFin_eq).length_le_card
  simpa [leaves_length h] using hcard

theorem nodes_length_lt {s : State} (h : BuilderOk s) : s.nodes.length < 512 := by
  obtain ⟨hleaves, ⟨hload, hmerge, hbuilt⟩, -⟩ := h
  have hle := nleaf_le hleaves
  cases hphase : s.phase with
  | load =>
    obtain ⟨hlen, -⟩ := hload hphase
    omega
  | merge =>
    obtain ⟨-, hsum, hone, -⟩ := hmerge hphase
    omega
  | built =>
    obtain ⟨-, -, ⟨-, hlen, -⟩ | ⟨-, hlen, -⟩⟩ := hbuilt hphase
    · omega
    · omega

theorem leafTotal_lt {s : State} (h : LeavesOk s) : leafTotal s.leaves < 2 ^ 40 := by
  obtain ⟨-, hleaf, -, -⟩ := id h
  have hle := nleaf_le h
  have hsum : leafTotal s.leaves ≤ s.leaves.length * (2 ^ 32 - 1) := by
    refine (List.sum_le_card_nsmul _ (2 ^ 32 - 1) ?_).trans_eq (by simp)
    intro w hw
    obtain ⟨n, hn, rfl⟩ := List.mem_map.1 hw
    obtain ⟨-, -, -, hweight⟩ := hleaf n hn
    exact Nat.le_sub_one_of_lt hweight
  rw [leaves_length h] at hsum
  omega

/-- Until the codes are assigned the arena has `2N - HS` nodes and the registers of the result are at their reset
values. -/
theorem counts_of_not_built {s : State} (h : CountsOk s) (hbuilt : s.phase ≠ .built) :
    s.heap.length + s.nodes.length = 2 * s.nleaf ∧ s.root = nilId ∧ s.total = 0 ∧ s.totbits = 0 := by
  obtain ⟨hload, hmerge, -⟩ := h
  cases hphase : s.phase with
  | load =>
    obtain ⟨hnodes, hheap, hregs⟩ := hload hphase
    exact ⟨by omega, hregs⟩
  | merge =>
    obtain ⟨-, hsum, -, hregs⟩ := hmerge hphase
    exact ⟨hsum, hregs⟩
  | built => exact absurd hphase hbuilt

/-- A table with a leaf has a key until the codes are assigned. -/
theorem one_le_heap_length {s : State} (h : CountsOk s) (hbuilt : s.phase ≠ .built) (hn : s.nleaf ≠ 0) :
    1 ≤ s.heap.length := by
  obtain ⟨hload, hmerge, -⟩ := h
  cases hphase : s.phase with
  | load =>
    obtain ⟨-, hheap, -⟩ := hload hphase
    omega
  | merge =>
    obtain ⟨-, -, hone, -⟩ := hmerge hphase
    exact hone
  | built => exact absurd hphase hbuilt

/-! ### The arena -/

/-- Below `2^16` an index and its node id are one number. -/
theorem toNat_nodeId {i : Nat} (h : i < 2 ^ 16) : (BitVec.ofNat 16 i).toNat = i := by
  rw [BitVec.toNat_ofNat, Nat.mod_eq_of_lt h]

theorem weightOf_eq_some {nodes : List Node} {id : NodeId} {n : Node} (h : nodes[id.toNat]? = some n) :
    weightOf nodes id = some n.weight := by
  rw [weightOf, h, Option.map_some]

theorem lt_of_weightOf {nodes : List Node} {id : NodeId} {w : Weight} (h : weightOf nodes id = some w) :
    id.toNat < nodes.length := by
  obtain ⟨n, hn, -⟩ := Option.map_eq_some_iff.1 h
  exact (List.getElem?_eq_some_iff.1 hn).1

theorem weightOf_append {nodes : List Node} (l : List Node) {id : NodeId} (h : id.toNat < nodes.length) :
    weightOf (nodes ++ l) id = weightOf nodes id := by
  rw [weightOf, weightOf, List.getElem?_append_left h]

/-- Internal nodes have children with smaller ids and weigh what these do (`10_state.md` R34, R40 (g)): the third part
of `ForestOk`. -/
def ChildrenOk (nodes : List Node) : Prop :=
  ∀ p ∈ nodes.zipIdx, p.1.leaf = false →
    p.1.left.toNat < p.2 ∧ p.1.right.toNat < p.2 ∧
    p.1.weight.toNat = ((weightOf nodes p.1.left).getD 0).toNat + ((weightOf nodes p.1.right).getD 0).toNat

theorem childIds_append_joinNode (nodes : List Node) (x y : HeapKey) :
    childIds (nodes ++ [joinNode x y]) = childIds nodes ++ [x.id, y.id] := by
  simp [childIds, joinNode]

/-! ### One merge keeps the invariants -/

/-- The key of the node that joins x and y, the next of the arena (`42_huffman_tree_builder.md` R198). -/
def joinKey (nodes : List Node) (x y : HeapKey) : HeapKey :=
  { weight := x.weight + y.weight, id := BitVec.ofNat 16 nodes.length }

/-- A merge as an exchange of two keys for the key of the node that joins them. -/
theorem mergeOnce_exchange {s : State} (hheap : 2 ≤ s.heap.length) :
    ∃ x y rest heap', s.heap.Perm (x :: y :: rest) ∧ heap'.Perm (joinKey s.nodes x y :: rest) ∧
      s.mergeOnce = { s with nodes := s.nodes ++ [joinNode x y], heap := heap', phase := .merge } := by
  obtain ⟨x, y, h1, h2, hx, hy, hmerge⟩ := mergeOnce_two hheap
  exact ⟨x, y, h2, _, (heapPop_perm hx).2.trans ((heapPop_perm hy).2.cons x), heapPush_perm _ _, hmerge⟩

theorem mergeOnce_phase {s : State} (hheap : 2 ≤ s.heap.length) : s.mergeOnce.phase = .merge := by
  obtain ⟨x, y, rest, heap', -, -, hmerge⟩ := mergeOnce_exchange hheap
  rw [hmerge]

theorem mergeOnce_nleaf (s : State) : s.mergeOnce.nleaf = s.nleaf := by
  rw [mergeOnce_frame]

/-- A merge adds a node behind the leaves. -/
theorem mergeOnce_leaves {s : State} (h : LeavesOk s) (hheap : 2 ≤ s.heap.length) :
    s.mergeOnce.leaves = s.leaves := by
  obtain ⟨x, y, rest, heap', -, -, hmerge⟩ := mergeOnce_exchange hheap
  rw [hmerge]
  exact List.take_append_of_le_length h.1

theorem mergeOnce_leavesOk {s : State} (h : LeavesOk s) (hheap : 2 ≤ s.heap.length) : LeavesOk s.mergeOnce := by
  have hleaves := mergeOnce_leaves h hheap
  obtain ⟨x, y, rest, heap', -, -, hmerge⟩ := mergeOnce_exchange hheap
  obtain ⟨hle, hleaf, hsyms, hinner⟩ := h
  unfold LeavesOk
  rw [hleaves, hmerge]
  refine ⟨?_, hleaf, hsyms, ?_⟩
  · rw [List.length_append]
    exact Nat.le_add_right_of_le hle
  · rw [List.drop_append_of_le_length hle]
    exact List.forall_mem_append.2 ⟨hinner, List.forall_mem_singleton.2 ⟨rfl, rfl⟩⟩

theorem mergeOnce_countsOk {s : State} (h : BuilderOk s) (hbuilt : s.phase ≠ .built) (hheap : 2 ≤ s.heap.length) :
    CountsOk s.mergeOnce := by
  have hkeys := mergeOnce_heap_length hheap
  have hnodes := mergeOnce_nodes_length hheap
  obtain ⟨⟨hle, -⟩, hcounts, -⟩ := h
  obtain ⟨hsum, hroot, htotal, htotbits⟩ := counts_of_not_built hcounts hbuilt
  unfold CountsOk
  rw [mergeOnce_phase hheap, mergeOnce_nleaf]
  refine ⟨fun hp => (nomatch hp), fun _ => ⟨by omega, by omega, by omega, ?_⟩, fun hp => (nomatch hp)⟩
  rw [mergeOnce_frame]
  exact ⟨hroot, htotal, htotbits⟩

section
variable {nodes : List Node} {heap heap' rest : List HeapKey} {x y : HeapKey}
  (hheap : heap.Perm (x :: y :: rest))
include hheap

/-- The joined keys' ids become child ids, and the new key has the next id. -/
theorem ids_of_exchange (hheap' : heap'.Perm (joinKey nodes x y :: rest))
    (h : (heap.map HeapKey.id ++ childIds nodes).Perm ((List.range nodes.length).map (BitVec.ofNat 16))) :
    (heap'.map HeapKey.id ++ childIds (nodes ++ [joinNode x y])).Perm
      ((List.range (nodes ++ [joinNode x y]).length).map (BitVec.ofNat 16)) := by
  rw [childIds_append_joinNode, List.length_append, List.length_singleton, List.range_succ, List.map_append,
    List.perm_iff_count]
  intro a
  have hold := h.count_eq a
  have hkeys := (hheap.map HeapKey.id).count_eq a
  have hkeys' := (hheap'.map HeapKey.id).count_eq a
  simp only [joinKey, List.count_append, List.map_cons, List.map_nil, List.count_cons, List.count_nil]
    at hold hkeys hkeys' ⊢
  omega

theorem weights_of_exchange (hheap' : heap'.Perm (joinKey nodes x y :: rest)) (hsize : nodes.length < 2 ^ 16)
    (h : ∀ k ∈ heap, weightOf nodes k.id = some k.weight) :
    ∀ k ∈ heap', weightOf (nodes ++ [joinNode x y]) k.id = some k.weight := by
  intro k hk
  rcases List.mem_cons.1 (hheap'.mem_iff.1 hk) with rfl | hk
  · refine weightOf_eq_some (n := joinNode x y) ?_
    rw [joinKey, toNat_nodeId hsize, List.getElem?_concat_length]
  · have hw := h k (hheap.mem_iff.2 (List.mem_cons_of_mem _ (List.mem_cons_of_mem _ hk)))
    exact (weightOf_append _ (lt_of_weightOf hw)).trans hw

/-- The new node's children are the nodes of the joined keys, and weigh what these do. -/
theorem children_of_exchange (hadd : (x.weight + y.weight).toNat = x.weight.toNat + y.weight.toNat)
    (hweights : ∀ k ∈ heap, weightOf nodes k.id = some k.weight) (h : ChildrenOk nodes) :
    ChildrenOk (nodes ++ [joinNode x y]) := by
  intro p hp hinner
  rw [List.zipIdx_append, List.mem_append] at hp
  rcases hp with hp | hp
  · obtain ⟨hl, hr, hw⟩ := h p hp hinner
    have hlt := List.snd_lt_of_mem_zipIdx hp
    rw [weightOf_append _ (hl.trans hlt), weightOf_append _ (hr.trans hlt)]
    exact ⟨hl, hr, hw⟩
  · obtain rfl : p = (joinNode x y, nodes.length) := by simpa using hp
    have hxw := hweights x (hheap.mem_iff.2 (by simp))
    have hyw := hweights y (hheap.mem_iff.2 (by simp))
    have hxlt := lt_of_weightOf hxw
    have hylt := lt_of_weightOf hyw
    refine ⟨hxlt, hylt, ?_⟩
    simp only [joinNode, weightOf_append _ hxlt, weightOf_append _ hylt, hxw, hyw, Option.getD_some, hadd]

end

theorem mergeOnce_forestOk {s : State} (h : BuilderOk s) (hheap : 2 ≤ s.heap.length) : ForestOk s.mergeOnce := by
  have hsize := nodes_length_lt h
  obtain ⟨hleaves, -, hids, hweights, hchildren, htotal⟩ := h
  have hfit := leafTotal_lt hleaves
  have hsame := mergeOnce_leaves hleaves hheap
  obtain ⟨x, y, rest, heap', hperm, hperm', hmerge⟩ := mergeOnce_exchange hheap
  have hsum := (hperm.map fun k => k.weight.toNat).sum_eq
  have hsum' := (hperm'.map fun k => k.weight.toNat).sum_eq
  simp only [joinKey, List.map_cons, List.sum_cons] at hsum hsum'
  have hadd : (x.weight + y.weight).toNat = x.weight.toNat + y.weight.toNat := by
    rw [BitVec.toNat_add, Nat.mod_eq_of_lt (by omega)]
  unfold ForestOk
  rw [hsame, hmerge]
  refine ⟨ids_of_exchange hperm hperm' hids, weights_of_exchange hperm hperm' (by omega) hweights,
    children_of_exchange hperm hadd hweights hchildren, ?_⟩
  dsimp only
  omega

theorem mergeOnce_builderOk {s : State} (h : BuilderOk s) (hbuilt : s.phase ≠ .built) (hheap : 2 ≤ s.heap.length) :
    BuilderOk s.mergeOnce :=
  ⟨mergeOnce_leavesOk h.leavesOk hheap, mergeOnce_countsOk h hbuilt hheap, mergeOnce_forestOk h hheap⟩

/-! ### The merges of HTB.BUILD -/

/-- More than one key: a merge comes first. -/
theorem mergeAll_succ_of_two {fuel : Nat} {s : State} (hheap : 2 ≤ s.heap.length) :
    State.mergeAll (fuel + 1) s = State.mergeAll fuel s.mergeOnce :=
  if_pos hheap

/-- One key: there is nothing to merge. -/
theorem mergeAll_of_one {fuel : Nat} {s : State} (hheap : s.heap.length = 1) : State.mergeAll fuel s = s := by
  cases fuel with
  | zero => rfl
  | succ fuel => exact if_neg (by omega)

/-- All merges leave one key and keep the leaves, the invariants and an open table. -/
theorem mergeAll_builderOk (fuel : Nat) {s : State} (h : BuilderOk s) (hbuilt : s.phase ≠ .built)
    (hone : 1 ≤ s.heap.length) (hfuel : s.heap.length ≤ fuel + 1) :
    BuilderOk (State.mergeAll fuel s) ∧ (State.mergeAll fuel s).phase ≠ .built ∧
      (State.mergeAll fuel s).heap.length = 1 ∧ (State.mergeAll fuel s).leaves = s.leaves ∧
      (State.mergeAll fuel s).nleaf = s.nleaf := by
  induction fuel generalizing s with
  | zero => exact ⟨h, hbuilt, le_antisymm hfuel hone, rfl, rfl⟩
  | succ fuel ih =>
    by_cases hheap : 2 ≤ s.heap.length
    · have hkeys := mergeOnce_heap_length hheap
      have hphase : s.mergeOnce.phase ≠ .built := by simp [mergeOnce_phase hheap]
      rw [mergeAll_succ_of_two hheap, ← mergeOnce_leaves h.leavesOk hheap, ← mergeOnce_nleaf s]
      exact ih (mergeOnce_builderOk h hbuilt hheap) hphase (by omega) (by omega)
    · have hlast : s.heap.length = 1 := by omega
      rw [mergeAll_of_one hlast]
      exact ⟨h, hbuilt, hlast, rfl, rfl⟩

end Sys2Proof.Machine
end

/-! PROOF. HTB.BUILD (`42_huffman_tree_builder.md` R206, R207): a build after a successful HTB.STEP is the build before
it but for CMDCNT, and two layouts of one table merge alike. -/

section
namespace Sys2Proof.Machine

/-! ### How HTB.ASSIGN and HTB.BUILD end -/

theorem htbAssignRule_of_built {s : State} (h : s.phase = .built) : htbAssignRule s = .reject .state :=
  if_pos h

theorem htbAssignRule_of_empty {s : State} (hbuilt : s.phase ≠ .built) (hn : s.nleaf = 0) :
    htbAssignRule s = .reject .empty := by
  rw [htbAssignRule, if_neg hbuilt, if_pos hn]

theorem htbAssignRule_of_keys {s : State} (hbuilt : s.phase ≠ .built) (hn : s.nleaf ≠ 0)
    (hheap : s.heap.length ≠ 1) : htbAssignRule s = .reject .state := by
  rw [htbAssignRule, if_neg hbuilt, if_neg hn, if_pos hheap]

theorem exec_htbAssign {s : State} (hf : s.faulted = false) (hbuilt : s.phase ≠ .built) (hn : s.nleaf ≠ 0)
    (hheap : s.heap.length = 1) :
    exec .htbAssign s = .next (s.assignHuffman.answer 0 (s.heapTop.setWidth 32)) := by
  refine runGated_of_success hf ?_
  rw [htbAssignRule, if_neg hbuilt, if_neg hn, if_neg (not_not.2 hheap)]

/-- What HTB.BUILD answers (`42_huffman_tree_builder.md` R206). -/
def State.build (s : State) : State :=
  (State.mergeAll s.heap.length s).assignHuffman.answer 0 ((State.mergeAll s.heap.length s).heapTop.setWidth 32)

theorem htbBuildRule_of_built {s : State} (h : s.phase = .built) : htbBuildRule s = .reject .state :=
  if_pos h

theorem htbBuildRule_of_empty {s : State} (hbuilt : s.phase ≠ .built) (hn : s.nleaf = 0) :
    htbBuildRule s = .reject .empty := by
  rw [htbBuildRule, if_neg hbuilt, if_pos hn]

theorem exec_htbBuild {s : State} (hf : s.faulted = false) (hbuilt : s.phase ≠ .built) (hn : s.nleaf ≠ 0) :
    exec .htbBuild s = .next s.build := by
  refine runGated_of_success hf ?_
  rw [htbBuildRule, if_neg hbuilt, if_neg hn]
  rfl

/-! ### A build takes up where steps stop -/

theorem mergeOnce_faulted (s : State) : s.mergeOnce.faulted = s.faulted := by
  rw [mergeOnce_frame]

/-- The merges leave the record as it was. -/
theorem mergeAll_record (fuel : Nat) (s : State) : (State.mergeAll fuel s).withRecordOf s = State.mergeAll fuel s :=
  (mergeAll_withRecordOf fuel s s).symm

/-- With one key left the build is the assignment. -/
theorem build_of_one {s : State} (hheap : s.heap.length = 1) :
    s.build = s.assignHuffman.answer 0 (s.heapTop.setWidth 32) := by
  rw [State.build, mergeAll_of_one hheap]

/-- The build after a step is the build before it, but that CMDCNT has counted the step. -/
theorem build_after_step {s : State} (hheap : 2 ≤ s.heap.length) (d : Word32) :
    (s.mergeOnce.answer 0 d).build = s.build.withCmdcnt (s.cmdcnt + 1 + 1) := by
  have hkeys := mergeOnce_heap_length hheap
  have hrecord : s.mergeOnce.answer 0 d = s.mergeOnce.withRecordOf (s.mergeOnce.answer 0 d) := rfl
  have hmerge : State.mergeAll (s.mergeOnce.answer 0 d).heap.length (s.mergeOnce.answer 0 d) =
      (State.mergeAll s.heap.length s).withRecordOf (s.mergeOnce.answer 0 d) := by
    rw [hrecord, mergeAll_withRecordOf, ← hrecord, answer_heap, ← hkeys, mergeAll_succ_of_two hheap]
  rw [State.build, hmerge, State.build, ← mergeAll_record s.heap.length s, mergeOnce_frame]
  rfl

/-- The steps that are left and HTB.ASSIGN do what the build does, and count as many commands as there are keys. -/
theorem succeedAll_steps_assign (n : Nat) {s : State} (hf : s.faulted = false) (hbuilt : s.phase ≠ .built)
    (hn : s.nleaf ≠ 0) (hheap : s.heap.length = n + 1) :
    succeedAll (List.replicate n .htbStep ++ [.htbAssign]) s =
      some (s.build.withCmdcnt (s.cmdcnt + BitVec.ofNat 32 (n + 1))) := by
  induction n generalizing s with
  | zero =>
    rw [build_of_one hheap]
    exact (succeedAll_cons (exec_htbAssign hf hbuilt hn hheap) (answer_err _ _ _)).trans rfl
  | succ n ih =>
    have hkeys := mergeOnce_heap_length (s := s) (by omega)
    have hcount : s.cmdcnt + 1 + BitVec.ofNat 32 (n + 1) = s.cmdcnt + BitVec.ofNat 32 (n + 1 + 1) := by
      rw [BitVec.ofNat_add (n + 1) 1, BitVec.add_assoc, BitVec.add_comm 1]
      rfl
    have hmerged : (s.mergeOnce.answer 0 (word32 s.nodes.length)).cmdcnt = s.cmdcnt + 1 := by
      rw [answer_cmdcnt, mergeOnce_frame]
    rw [List.replicate_succ, List.cons_append,
      succeedAll_cons (exec_htbStep hf hbuilt (by omega)) (answer_err _ _ _),
      ih (by rw [answer_faulted, mergeOnce_faulted, hf])
        (by rw [answer_phase, mergeOnce_phase (by omega)]; exact Phase.noConfusion)
        (by rwa [answer_nleaf, mergeOnce_nleaf]) (by rw [answer_heap]; omega),
      build_after_step (by omega), hmerged, hcount]
    rfl

/-- A command of a list that succeeds answers SUCCESS, and the rest of the list succeeds after it. -/
theorem exec_of_succeedAll_cons {i : Instr} {rest : List Instr} {s v : State}
    (h : succeedAll (i :: rest) s = some v) :
    ∃ t, exec i s = .next t ∧ t.err = some 0 ∧ succeedAll rest t = some v := by
  obtain ⟨t, ht⟩ := exec_next i s
  simp only [succeedAll, ht] at h
  split_ifs at h with herr
  exact ⟨t, ht, herr, h⟩

/-- A successful HTB.STEP is a merge. -/
theorem merge_of_step_succeeds {s t : State} (hf : s.faulted = false) (h : exec .htbStep s = .next t)
    (herr : t.err = some 0) :
    s.phase ≠ .built ∧ 2 ≤ s.heap.length ∧ t = s.mergeOnce.answer 0 (word32 s.nodes.length) := by
  by_cases hrefused : s.phase = .built ∨ s.heap.length < 2
  · have hrefuse : exec .htbStep s = .next (s.refuse .state) := runGated_of_reject hf (htbStepRule_of_refused hrefused)
    obtain rfl := Host.Outcome.next.inj (hrefuse.symm.trans h)
    rw [State.refuse, answer_err] at herr
    exact absurd (Option.some.inj herr) (by decide)
  · obtain ⟨hbuilt, hheap⟩ := not_or.1 hrefused
    have hheap := Nat.not_lt.1 hheap
    exact ⟨hbuilt, hheap, Host.Outcome.next.inj (h.symm.trans (exec_htbStep hf hbuilt hheap))⟩

/-- After successful steps the table is still open, and the build still the same but for CMDCNT. -/
theorem build_after_steps (m : Nat) {s v : State} (hf : s.faulted = false) (hbuilt : s.phase ≠ .built)
    (h : succeedAll (List.replicate m .htbStep) s = some v) :
    v.faulted = false ∧ v.phase ≠ .built ∧ v.nleaf = s.nleaf ∧ ∃ c, v.build = s.build.withCmdcnt c := by
  induction m generalizing s with
  | zero =>
    obtain rfl := Option.some.inj h
    exact ⟨hf, hbuilt, rfl, _, rfl⟩
  | succ m ih =>
    obtain ⟨t, ht, herr, hrest⟩ := exec_of_succeedAll_cons h
    obtain ⟨-, hheap, rfl⟩ := merge_of_step_succeeds hf ht herr
    obtain ⟨hfv, hbv, hnv, c, hbuild⟩ := ih (by rw [answer_faulted, mergeOnce_faulted, hf])
      (by rw [answer_phase, mergeOnce_phase hheap]; exact Phase.noConfusion) hrest
    rw [answer_nleaf, mergeOnce_nleaf] at hnv
    rw [build_after_step hheap] at hbuild
    exact ⟨hfv, hbv, hnv, c, hbuild⟩

/-! ### Two layouts of one table -/

/-- The same leaves, arena and set of keys, in heaps that may be laid out differently. -/
structure SameTable (s u : State) : Prop where
  nleaf : s.nleaf = u.nleaf
  nodes : s.nodes = u.nodes
  keys : s.heap.Perm u.heap
  ordered_left : HeapOrdered s.heap
  ordered_right : HeapOrdered u.heap

/-- The key popped does not depend on the layout. -/
theorem heapPop_layout {h g h' g' : List HeapKey} {x z : HeapKey} (hperm : h.Perm g) (hord : HeapOrdered h)
    (gord : HeapOrdered g) (hx : heapPop h = some (x, h')) (hz : heapPop g = some (z, g')) : x = z ∧ h'.Perm g' := by
  have hp := (heapPop_perm hx).2
  have gp := (heapPop_perm hz).2
  have hxz : x = z := HeapKey.eq_of_rank_eq (le_antisymm
    (heapPop_least hx hord z (hperm.mem_iff.2 (gp.mem_iff.2 List.mem_cons_self)))
    (heapPop_least hz gord x (hperm.mem_iff.1 (hp.mem_iff.2 List.mem_cons_self))))
  subst hxz
  exact ⟨rfl, (hp.symm.trans (hperm.trans gp)).cons_inv⟩

theorem SameTable.mergeOnce {s u : State} (h : SameTable s u) (hheap : 2 ≤ s.heap.length) :
    SameTable s.mergeOnce u.mergeOnce := by
  obtain ⟨hnleaf, hnodes, hkeys, hs, hu⟩ := h
  obtain ⟨x, y, h1, h2, hx, hy, hmerge⟩ := mergeOnce_two hheap
  obtain ⟨x', y', g1, g2, gx, gy, gmerge⟩ := mergeOnce_two (hkeys.length_eq ▸ hheap)
  obtain ⟨rfl, hperm1⟩ := heapPop_layout hkeys hs hu hx gx
  obtain ⟨rfl, hperm2⟩ := heapPop_layout hperm1 (heapPop_ordered hx hs) (heapPop_ordered gx hu) hy gy
  obtain ⟨-, -, -, hs2⟩ := heapPop_two_least hx hy hs
  obtain ⟨-, -, -, hu2⟩ := heapPop_two_least gx gy hu
  rw [hmerge, gmerge, hnodes]
  exact {
    nleaf := hnleaf
    nodes := rfl
    keys := (heapPush_perm _ _).trans ((hperm2.cons _).trans (heapPush_perm _ _).symm)
    ordered_left := heapPush_ordered _ hs2
    ordered_right := heapPush_ordered _ hu2 }

theorem SameTable.mergeAll (fuel : Nat) {s u : State} (h : SameTable s u) :
    SameTable (State.mergeAll fuel s) (State.mergeAll fuel u) := by
  induction fuel generalizing s u with
  | zero => exact h
  | succ fuel ih =>
    have hlen := h.keys.length_eq
    unfold State.mergeAll
    split_ifs with hs hu hu
    · exact ih (h.mergeOnce hs)
    · omega
    · omega
    · exact h

/-- The arena has the weights of the keys, so that their ids say what they are. -/
theorem map_key_of_id {nodes : List Node} {heap : List HeapKey}
    (h : ∀ k ∈ heap, weightOf nodes k.id = some k.weight) :
    (heap.map HeapKey.id).map (fun id => ⟨(weightOf nodes id).getD 0, id⟩) = heap := by
  rw [List.map_map]
  refine (List.map_congr_left fun k hk => ?_).trans (List.map_id heap)
  simp [h k hk]

/-- In PHASE LOAD the leaves determine the keys. -/
theorem sameTable_of_leaves {s u : State} (hs : BuilderOk s) (hu : BuilderOk u) (hsl : s.phase = .load)
    (hul : u.phase = .load) (hsord : HeapOrdered s.heap) (huord : HeapOrdered u.heap) (h : s.leaves = u.leaves) :
    SameTable s u := by
  obtain ⟨hsleaves, ⟨hsload, -, -⟩, hsids, hsweights, -, -⟩ := hs
  obtain ⟨huleaves, ⟨huload, -, -⟩, huids, huweights, -, -⟩ := hu
  obtain ⟨hslen, -⟩ := hsload hsl
  obtain ⟨hulen, -⟩ := huload hul
  have hnodes : s.nodes = u.nodes := by
    rwa [State.leaves, State.leaves, List.take_of_length_le hslen.le, List.take_of_length_le hulen.le] at h
  have hids : (s.heap.map HeapKey.id).Perm (u.heap.map HeapKey.id) := by
    rw [hnodes] at hsids
    exact (List.perm_append_right_iff _).1 (hsids.trans huids.symm)

  refine ⟨hslen.symm.trans ((congrArg List.length hnodes).trans hulen), hnodes, ?_, hsord, huord⟩
  rw [hnodes] at hsweights
  rw [← map_key_of_id hsweights, ← map_key_of_id huweights]
  exact hids.map _

/-- What a build leaves of the table, the codebook and the response, as one value. -/
def State.buildResult (s : State) :=
  (s.rsp, s.nleaf, s.nodes, s.heap, s.phase, s.root, s.total, s.totbits, s.cb, s.cbSrc, s.fwWidth)

theorem SameTable.build {s u : State} (h : SameTable s u) (hone : (State.mergeAll s.heap.length s).heap.length = 1) :
    s.build.buildResult = u.build.buildResult := by
  obtain ⟨hnleaf, hnodes, hkeys, -, -⟩ := h.mergeAll s.heap.length
  obtain ⟨k, hk⟩ := List.length_eq_one_iff.1 hone
  have hheap : (State.mergeAll s.heap.length s).heap = (State.mergeAll s.heap.length u).heap :=
    hk.trans (List.singleton_perm.1 (hk ▸ hkeys))
  simp only [State.build, State.buildResult, ← h.keys.length_eq, State.answer, State.assignHuffman, State.leaves,
    State.heapTop, hnleaf, hnodes, hheap]

/-- Settles O37: the build is that of the table in PHASE LOAD whatever steps came first, and the keys of that table are
its leaves'. -/
theorem buildIsStepsThenAssign : Obligations.BuildIsStepsThenAssign := by
  intro s hf
  refine ⟨fun h => runGated_of_reject hf (htbBuildRule_of_built h),
    fun hbuilt hn => runGated_of_reject hf (htbBuildRule_of_empty hbuilt hn), fun hbuilt hn hone => ?_, ?_⟩
  · obtain ⟨n, hheap⟩ := Nat.exists_eq_add_of_le' hone
    refine ⟨_, by rw [hheap]; exact succeedAll_steps_assign n hf hbuilt hn hheap, by rw [hheap]; rfl, ?_⟩
    rw [exec_htbBuild hf hbuilt hn, State.build, ← mergeAll_record s.heap.length s]
    rfl
  · intro u v w m n hs hsord hsl huf hu huord hul hleaves hn hv hw
    have hsame := sameTable_of_leaves hs hu hsl hul hsord huord hleaves
    have hsb : s.phase ≠ .built := by simp [hsl]
    have hub : u.phase ≠ .built := by simp [hul]
    obtain ⟨hvf, hvb, hvn, c, hvbuild⟩ := build_after_steps m hf hsb hv
    obtain ⟨hwf, hwb, hwn, d, hwbuild⟩ := build_after_steps n huf hub hw
    have hone := one_le_heap_length hs.countsOk hsb hn
    obtain ⟨-, -, hlast, -, -⟩ := mergeAll_builderOk s.heap.length hs hsb hone (Nat.le_succ _)
    have hbuilt : v.build.buildResult = w.build.buildResult := by
      rw [hvbuild, hwbuild]
      exact hsame.build hlast
    simp only [State.buildResult, Prod.mk.injEq] at hbuilt
    exact ⟨v.build, w.build, exec_htbBuild hvf hvb (by rwa [hvn]),
      exec_htbBuild hwf hwb (by rwa [hwn, ← hsame.nleaf]), answer_err _ _ _, hbuilt⟩

end Sys2Proof.Machine
end

/-! PROOF. The paths of a tree (`42_huffman_tree_builder.md` R202): in an arena whose nodes other than the root are each
the child of one node with a larger id, one path leads from the root to each node, and `pathTo` finds it. -/

section
namespace Sys2Proof.Machine

/-! ### Children -/

/-- Node v is the `left` (bit 0) or `right` (bit 1) of the internal node m. -/
def Child (nodes : List Node) (m : NodeId) (b : Bool) (v : NodeId) : Prop :=
  ∃ nd, nodes[m.toNat]? = some nd ∧ nd.leaf = false ∧ (if b then nd.right else nd.left) = v

theorem Child.parent_lt {nodes : List Node} {m v : NodeId} {b : Bool} (h : Child nodes m b v) :
    m.toNat < nodes.length := by
  obtain ⟨nd, hnd, -⟩ := h
  exact (List.getElem?_eq_some_iff.1 hnd).1

theorem mem_childIds_iff {nodes : List Node} {v : NodeId} :
    v ∈ childIds nodes ↔ ∃ nd ∈ nodes, nd.leaf = false ∧ (v = nd.left ∨ v = nd.right) := by
  refine List.mem_flatMap.trans (exists_congr fun nd => and_congr_right fun _ => ?_)
  cases nd.leaf <;> simp

theorem Child.mem_childIds {nodes : List Node} {m v : NodeId} {b : Bool} (h : Child nodes m b v) :
    v ∈ childIds nodes := by
  obtain ⟨nd, hnd, hleaf, rfl⟩ := h
  exact mem_childIds_iff.2 ⟨nd, List.mem_of_getElem? hnd, hleaf, by cases b <;> simp⟩

theorem exists_child {nodes : List Node} (hsize : nodes.length < 2 ^ 16) {v : NodeId} (h : v ∈ childIds nodes) :
    ∃ m b, Child nodes m b v := by
  obtain ⟨nd, hnd, hleaf, hv⟩ := mem_childIds_iff.1 h
  obtain ⟨i, hi, rfl⟩ := List.getElem_of_mem hnd
  have hid : nodes[(BitVec.ofNat 16 i).toNat]? = some nodes[i] := by
    rw [toNat_nodeId (hi.trans hsize), List.getElem?_eq_getElem hi]
  rcases hv with rfl | rfl
  · exact ⟨_, false, _, hid, hleaf, rfl⟩
  · exact ⟨_, true, _, hid, hleaf, rfl⟩

/-- Where no id is twice a child, a node has one parent and one place below it. -/
theorem Child.unique {nodes : List Node} (hnodup : (childIds nodes).Nodup) {m m' v : NodeId} {b b' : Bool}
    (h : Child nodes m b v) (h' : Child nodes m' b' v) : m = m' ∧ b = b' := by
  obtain ⟨nd, hnd, hleaf, hv⟩ := h
  obtain ⟨nd', hnd', hleaf', hv'⟩ := h'
  obtain ⟨hinner, houter⟩ := List.nodup_flatMap.1 hnodup
  obtain ⟨hi, rfl⟩ := List.getElem?_eq_some_iff.1 hnd
  obtain ⟨hi', rfl⟩ := List.getElem?_eq_some_iff.1 hnd'
  have hmem : ∀ {nd : Node} {c : Bool}, nd.leaf = false → (if c then nd.right else nd.left) = v →
      v ∈ if nd.leaf then [] else [nd.left, nd.right] := by
    rintro nd (_ | _) hleaf rfl <;> simp [hleaf]
  have hpair := List.pairwise_iff_getElem.1 houter
  rcases lt_trichotomy m.toNat m'.toNat with hlt | heq | hlt
  · exact absurd (hmem hleaf' hv') (hpair _ _ hi hi' hlt (hmem hleaf hv))
  · obtain rfl := BitVec.eq_of_toNat_eq heq
    have hne : nodes[m.toNat].left ≠ nodes[m.toNat].right := by
      simpa [hleaf] using hinner _ (List.getElem_mem hi)
    exact ⟨rfl, match b, b', hv.trans hv'.symm with
      | false, false, _ => rfl
      | true, true, _ => rfl
      | false, true, e => absurd e hne
      | true, false, e => absurd e hne.symm⟩
  · exact absurd (hmem hleaf hv) (hpair _ _ hi' hi hlt (hmem hleaf' hv'))

/-! ### Walks -/

theorem walk_cons_iff {nodes : List Node} {n v : NodeId} {b : Bool} {p : List Bool} :
    walk nodes n (b :: p) = some v ↔ ∃ c, Child nodes n b c ∧ walk nodes c p = some v := by
  simp only [walk, Child]
  cases nodes[n.toNat]? with
  | none => simp
  | some nd => cases nd.leaf <;> simp

theorem walk_concat_iff {nodes : List Node} {n v : NodeId} {p : List Bool} {b : Bool} :
    walk nodes n (p ++ [b]) = some v ↔ ∃ m, walk nodes n p = some m ∧ Child nodes m b v := by
  induction p generalizing n with
  | nil =>
    rw [List.nil_append, walk_cons_iff]
    simp [walk]
  | cons c p ih =>
    simp only [List.cons_append, walk_cons_iff, ih]
    grind

/-! ### Trees -/

/-- The arena is one tree: every node is the root or the child of exactly one node, which has a larger id
(`10_state.md` R40). -/
structure Tree (nodes : List Node) (root : NodeId) : Prop where
  ids : (root :: childIds nodes).Perm ((List.range nodes.length).map (BitVec.ofNat 16))
  child_lt : ∀ {m b v}, Child nodes m b v → v.toNat < m.toNat
  size : nodes.length < 2 ^ 16

/-- A builder with one key left holds a tree. -/
theorem tree_of_builderOk {s : State} {k : HeapKey} (h : BuilderOk s) (hheap : s.heap = [k]) : Tree s.nodes k.id := by
  have hsize := nodes_length_lt h
  obtain ⟨-, -, hids, -, hchildren, -⟩ := h
  refine ⟨by simpa [hheap] using hids, ?_, by omega⟩
  rintro m b v ⟨nd, hnd, hleaf, rfl⟩
  obtain ⟨hl, hr, -⟩ := hchildren (nd, m.toNat) (List.mem_zipIdx_iff_getElem?.2 hnd) hleaf
  cases b
  · exact hl
  · exact hr

section
variable {nodes : List Node} {root : NodeId} (h : Tree nodes root)
include h

theorem Tree.nodup : (root :: childIds nodes).Nodup := by
  refine h.ids.nodup_iff.2 (List.Nodup.map_on (fun i hi j hj hij => ?_) List.nodup_range)
  rw [List.mem_range] at hi hj
  rw [← toNat_nodeId (hi.trans h.size), hij, toNat_nodeId (hj.trans h.size)]

theorem Tree.eq_root_or_child {v : NodeId} (hv : v.toNat < nodes.length) : v = root ∨ ∃ m b, Child nodes m b v := by
  have hmem : v ∈ (List.range nodes.length).map (BitVec.ofNat 16) :=
    List.mem_map.2 ⟨v.toNat, List.mem_range.2 hv, BitVec.ofNat_toNat 16 v⟩
  exact (List.mem_cons.1 (h.ids.mem_iff.2 hmem)).imp_right (exists_child h.size)

theorem Tree.root_lt : root.toNat < nodes.length := by
  obtain ⟨i, hi, hroot⟩ := List.mem_map.1 (h.ids.mem_iff.1 List.mem_cons_self)
  rw [List.mem_range] at hi
  rwa [← hroot, toNat_nodeId (hi.trans h.size)]

/-- A walk goes down: its bits and the id it ends at fit below the id it starts from. -/
theorem Tree.walk_length_le {n v : NodeId} {p : List Bool} (hp : walk nodes n p = some v) :
    p.length + v.toNat ≤ n.toNat := by
  induction p generalizing n with
  | nil =>
    obtain rfl := Option.some.inj hp
    simp
  | cons b p ih =>
    obtain ⟨c, hc, hp⟩ := walk_cons_iff.1 hp
    have hlt := h.child_lt hc
    have hle := ih hp
    rw [List.length_cons]
    omega

theorem Tree.walk_root_unique {v : NodeId} {p q : List Bool} (hp : walk nodes root p = some v)
    (hq : walk nodes root q = some v) : p = q := by
  obtain ⟨hroot, hnodup⟩ := List.nodup_cons.1 h.nodup
  induction p using List.reverseRecOn generalizing q v with
  | nil =>
    obtain rfl := Option.some.inj hp
    rcases List.eq_nil_or_concat' q with rfl | ⟨q, b, rfl⟩
    · rfl
    · obtain ⟨m, -, hm⟩ := walk_concat_iff.1 hq
      exact absurd hm.mem_childIds hroot
  | append_singleton p b ih =>
    obtain ⟨m, hpm, hm⟩ := walk_concat_iff.1 hp
    rcases List.eq_nil_or_concat' q with rfl | ⟨q, c, rfl⟩
    · obtain rfl := Option.some.inj hq
      exact absurd hm.mem_childIds hroot
    · obtain ⟨m', hqm, hm'⟩ := walk_concat_iff.1 hq
      obtain ⟨rfl, rfl⟩ := hm.unique hnodup hm'
      rw [ih hpm hqm]

/-- Every node is reached from the root: its parent is, whose id is larger. -/
theorem Tree.exists_walk (v : NodeId) (hv : v.toNat < nodes.length) : ∃ p, walk nodes root p = some v := by
  induction hd : nodes.length - v.toNat using Nat.strong_induction_on generalizing v with
  | _ d ih =>
    rcases h.eq_root_or_child hv with rfl | ⟨m, b, hm⟩
    · exact ⟨[], rfl⟩
    · have hlt := h.child_lt hm
      have hm' := hm.parent_lt
      obtain ⟨p, hp⟩ := ih (nodes.length - m.toNat) (by omega) m hm' rfl
      exact ⟨p ++ [b], walk_concat_iff.2 ⟨m, hp, hm⟩⟩

end

/-! ### `pathTo` finds the walk -/

theorem walk_of_pathTo {nodes : List Node} (fuel : Nat) {n v : NodeId} {p : List Bool}
    (h : pathTo nodes fuel n.toNat v.toNat = some p) : walk nodes n p = some v := by
  induction fuel generalizing n p with
  | zero => exact nomatch h
  | succ fuel ih =>
    unfold pathTo at h
    split_ifs at h with hnv
    · obtain rfl := Option.some.inj h
      exact congrArg some (BitVec.eq_of_toNat_eq hnv)
    · split at h
      · exact nomatch h
      · rename_i nd hnd
        split_ifs at h with hleaf
        rw [Bool.not_eq_true] at hleaf
        split at h
        · rename_i q hq
          obtain rfl := Option.some.inj h
          exact walk_cons_iff.2 ⟨nd.left, ⟨nd, hnd, hleaf, rfl⟩, ih hq⟩
        · obtain ⟨q, hq, rfl⟩ := Option.map_eq_some_iff.1 h
          exact walk_cons_iff.2 ⟨nd.right, ⟨nd, hnd, hleaf, rfl⟩, ih hq⟩

theorem pathTo_isSome_of_walk {nodes : List Node} (fuel : Nat) {n v : NodeId} {p : List Bool}
    (h : walk nodes n p = some v) (hfuel : p.length < fuel) : (pathTo nodes fuel n.toNat v.toNat).isSome = true := by
  induction fuel generalizing n p with
  | zero => exact absurd hfuel (Nat.not_lt_zero _)
  | succ fuel ih =>
    unfold pathTo
    split_ifs with hnv
    · rfl
    · cases p with
      | nil =>
        obtain rfl := Option.some.inj h
        exact absurd rfl hnv
      | cons b p =>
        obtain ⟨c, ⟨nd, hnd, hleaf, hc⟩, hp⟩ := walk_cons_iff.1 h
        have hsome := ih hp (by simpa using hfuel)
        simp only [hnd, hleaf, Bool.false_eq_true, if_false]
        cases hleft : pathTo nodes fuel nd.left.toNat v.toNat with
        | some q => rfl
        | none =>
          cases b with
          | false =>
            obtain rfl := hc
            simp [hleft] at hsome
          | true =>
            obtain rfl := hc
            simpa using hsome

/-- In a tree `pathTo` finds the one walk from the root. -/
theorem Tree.pathTo_eq_some_iff {nodes : List Node} {root : NodeId} (h : Tree nodes root) {v : NodeId} {p : List Bool} :
    pathTo nodes nodes.length root.toNat v.toNat = some p ↔ walk nodes root p = some v := by
  refine ⟨walk_of_pathTo _, fun hp => ?_⟩
  have hle := h.walk_length_le hp
  have hroot := h.root_lt
  obtain ⟨q, hq⟩ := Option.isSome_iff_exists.1 (pathTo_isSome_of_walk nodes.length hp (by omega))
  rw [hq, h.walk_root_unique (walk_of_pathTo _ hq) hp]

end Sys2Proof.Machine
end

/-! PROOF. HTB.ASSIGN (`42_huffman_tree_builder.md` R202, R203): what the assigned codebook holds for each symbol, and
that the paths are those of the tree. -/

section
namespace Sys2Proof.Machine

/-! ### The codebook -/

@[simp] theorem cbEntry_cbSet_same (cb : Vector CbEntry 256) (sym : Byte) (e : CbEntry) :
    cbEntry (cbSet cb sym e) sym = e :=
  Vector.getElem_set_self _

theorem cbEntry_cbSet_of_ne (cb : Vector CbEntry 256) {sym r : Byte} (e : CbEntry) (h : r ≠ sym) :
    cbEntry (cbSet cb sym e) r = cbEntry cb r :=
  Vector.getElem_set_ne _ _ fun heq => h (BitVec.eq_of_toNat_eq heq.symm)

@[simp] theorem cbEntry_cbCleared (sym : Byte) : cbEntry cbCleared sym = CbEntry.cleared :=
  Vector.getElem_replicate _

/-- One more numbered leaf gets its entry (`42_huffman_tree_builder.md` R202). -/
def assignLeaf (path : Nat → List Bool) (cb : Vector CbEntry 256) (p : Node × Nat) : Vector CbEntry 256 :=
  cbSet cb p.1.sym (entryFor (path p.2))

theorem assignCodes_eq_foldl (leaves : List Node) (path : Nat → List Bool) :
    assignCodes leaves path = leaves.zipIdx.foldl (assignLeaf path) cbCleared := rfl

/-- A symbol that no leaf has keeps its entry. -/
theorem cbEntry_foldl_of_no_leaf (path : Nat → List Bool) {sym : Byte} {l : List (Node × Nat)}
    (h : ∀ p ∈ l, p.1.sym ≠ sym) (cb : Vector CbEntry 256) :
    cbEntry (l.foldl (assignLeaf path) cb) sym = cbEntry cb sym := by
  induction l generalizing cb with
  | nil => rfl
  | cons p l ih =>
    obtain ⟨hp, hl⟩ := List.forall_mem_cons.1 h
    rw [List.foldl_cons, ih hl]
    exact cbEntry_cbSet_of_ne _ _ hp.symm

/-- Where the leaves have distinct symbols, each symbol gets its own leaf's entry. -/
theorem cbEntry_foldl_of_leaf (path : Nat → List Bool) {l : List (Node × Nat)}
    (hsyms : (l.map fun p => p.1.sym).Nodup) {p : Node × Nat} (h : p ∈ l) (cb : Vector CbEntry 256) :
    cbEntry (l.foldl (assignLeaf path) cb) p.1.sym = entryFor (path p.2) := by
  induction l generalizing cb with
  | nil => exact absurd h List.not_mem_nil
  | cons q l ih =>
    obtain ⟨hq, hsyms⟩ := List.nodup_cons.1 hsyms
    rcases List.mem_cons.1 h with rfl | h
    · rw [List.foldl_cons, cbEntry_foldl_of_no_leaf path fun r hr e => hq (List.mem_map.2 ⟨r, hr, e⟩)]
      exact cbEntry_cbSet_same _ _ _
    · exact ih hsyms h _

theorem cbEntry_assignCodes {leaves : List Node} (path : Nat → List Bool) (hsyms : (leaves.map Node.sym).Nodup)
    {i : Nat} {n : Node} (h : leaves[i]? = some n) :
    cbEntry (assignCodes leaves path) n.sym = entryFor (path i) := by
  have hzip : (leaves.zipIdx.map fun p => p.1.sym) = leaves.map Node.sym := by
    rw [← List.zipIdx_map_fst 0 leaves, List.map_map, List.zipIdx_map_fst]
    rfl
  rw [assignCodes_eq_foldl]
  exact cbEntry_foldl_of_leaf path (hzip ▸ hsyms) (List.mem_zipIdx_iff_getElem?.2 h : (n, i) ∈ leaves.zipIdx) _

theorem cbEntry_assignCodes_of_no_leaf {leaves : List Node} (path : Nat → List Bool) {sym : Byte}
    (h : ∀ n ∈ leaves, n.sym ≠ sym) : cbEntry (assignCodes leaves path) sym = CbEntry.cleared := by
  rw [assignCodes_eq_foldl, cbEntry_foldl_of_no_leaf path fun p hp => h p.1 (List.fst_mem_of_mem_zipIdx hp),
    cbEntry_cbCleared]

/-! ### The entry for a bit sequence -/

theorem entryFor_len {p : List Bool} (h : p.length ≤ 255) : (entryFor p).len.toNat = p.length := by
  rw [entryFor, BitVec.toNat_ofNat, Nat.mod_eq_of_lt (by omega)]

theorem entryFor_bits {p : List Bool} (h : p.length ≤ 255) : (entryFor p).bits.toNat = bitsVal p := by
  have hlt : bitsVal p < 2 ^ 256 := (bitsVal_lt p).trans_le (Nat.pow_le_pow_right (by decide) (by omega))
  rw [entryFor, BitVec.toNat_ofNat, Nat.mod_eq_of_lt hlt]

/-- The entry for a bit sequence is read as that sequence. -/
theorem codeOf_of_entryFor {cb : Vector CbEntry 256} {sym : Byte} {p : List Bool} (hp : p.length ≤ 255)
    (h : cbEntry cb sym = entryFor p) : codeOf cb sym = some p := by
  rw [codeOf_of_valid (by rw [h]; rfl), h, entryFor_len hp, entryFor_bits hp, bitsOf_bitsVal]

/-! ### The paths of the leaves -/

/-- Leaves come first: a node with a child is not among them. -/
theorem nleaf_le_of_child {s : State} (h : LeavesOk s) {m v : NodeId} {b : Bool} (hc : Child s.nodes m b v) :
    s.nleaf ≤ m.toNat := by
  obtain ⟨-, hleaf, -, -⟩ := h
  obtain ⟨nd, hnd, hinner, -⟩ := hc
  by_contra hlt
  have hmem : nd ∈ s.leaves :=
    List.mem_of_getElem? (i := m.toNat) ((List.getElem?_take_of_lt (not_le.1 hlt)).trans hnd)
  obtain ⟨htrue, -⟩ := hleaf nd hmem
  exact absurd (hinner.symm.trans htrue) Bool.false_ne_true

/-- A path passes through internal nodes only, of which there are `N - 1`. -/
theorem walk_root_length_le {s : State} {k : HeapKey} (h : BuilderOk s) (hbuilt : s.phase ≠ .built)
    (hheap : s.heap = [k]) {v : NodeId} {p : List Bool} (hp : walk s.nodes k.id p = some v) :
    p.length ≤ s.nleaf - 1 := by
  have htree := tree_of_builderOk h hheap
  obtain ⟨hsum, -⟩ := counts_of_not_built h.countsOk hbuilt
  rw [hheap, List.length_singleton] at hsum
  rcases List.eq_nil_or_concat' p with rfl | ⟨q, b, rfl⟩
  · simp
  · obtain ⟨m, hq, hm⟩ := walk_concat_iff.1 hp
    have hlen := htree.walk_length_le hq
    have hinner := nleaf_le_of_child h.leavesOk hm
    have hroot := htree.root_lt
    rw [List.length_append, List.length_singleton]
    omega

theorem nodes_getElem?_of_leaf {s : State} {i : Nat} {n : Node} (h : s.leaves[i]? = some n) :
    i < s.nleaf ∧ s.nodes[i]? = some n := by
  have hlt : i < s.nleaf := by
    have := (List.getElem?_eq_some_iff.1 h).1
    rw [State.leaves, List.length_take] at this
    omega
  exact ⟨hlt, (List.getElem?_take_of_lt hlt).symm.trans h⟩

theorem heapTop_of_singleton {s : State} {k : HeapKey} (hheap : s.heap = [k]) : s.heapTop = k.id := by
  rw [State.heapTop, hheap]

/-- TOTAL fits its register. -/
theorem assigned_total {s : State} (h : LeavesOk s) : s.assignHuffman.total.toNat = leafTotal s.leaves := by
  have hfit := leafTotal_lt h
  rw [assignHuffman_total, BitVec.toNat_ofNat, Nat.mod_eq_of_lt (by omega)]

/-- The entry of a leaf's symbol in the assigned codebook. -/
theorem assigned_entry {s : State} {k : HeapKey} (h : LeavesOk s) (hheap : s.heap = [k]) {i : Nat} {n : Node}
    (hi : s.leaves[i]? = some n) :
    cbEntry s.assignHuffman.cb n.sym = entryFor (leafPath s.nodes s.nleaf k.id i) := by
  obtain ⟨-, -, hsyms, -⟩ := h
  rw [assignHuffman_cb, heapTop_of_singleton hheap]
  exact cbEntry_assignCodes _ hsyms hi

section
variable {s : State} {k : HeapKey} (h : BuilderOk s) (hbuilt : s.phase ≠ .built)
  (hheap : s.heap = [k])
include h hbuilt hheap

/-- The bits of a leaf's code are the walk from the root to it, or the bit 0 when it is the only leaf. -/
theorem leafPath_spec {i : Nat} {n : Node} (hi : s.leaves[i]? = some n) :
    ∃ p, walk s.nodes k.id p = some (BitVec.ofNat 16 i) ∧ p.length ≤ 255 ∧
      leafPath s.nodes s.nleaf k.id i = if s.nleaf = 1 then [false] else p := by
  have htree := tree_of_builderOk h hheap
  have hle := nleaf_le h.leavesOk
  obtain ⟨hlt, hnode⟩ := nodes_getElem?_of_leaf hi
  have hid : (BitVec.ofNat 16 i).toNat = i := toNat_nodeId (by omega)
  obtain ⟨p, hp⟩ := htree.exists_walk (BitVec.ofNat 16 i) (by rw [hid]; exact (List.getElem?_eq_some_iff.1 hnode).1)
  have hlen := walk_root_length_le h hbuilt hheap hp
  have hpath := htree.pathTo_eq_some_iff.2 hp
  rw [hid] at hpath
  exact ⟨p, hp, by omega, by rw [leafPath, hpath, Option.getD_some]⟩

theorem leafPath_length_le {i : Nat} {n : Node} (hi : s.leaves[i]? = some n) :
    (leafPath s.nodes s.nleaf k.id i).length ≤ 255 := by
  obtain ⟨p, -, hlen, hpath⟩ := leafPath_spec h hbuilt hheap hi
  rw [hpath]
  split_ifs
  · simp
  · exact hlen

theorem assigned_len {n : Node} (hmem : n ∈ s.leaves) :
    (cbEntry s.assignHuffman.cb n.sym).len.toNat ≤ 255 ∧
      ((codeOf s.assignHuffman.cb n.sym).getD []).length = (cbEntry s.assignHuffman.cb n.sym).len.toNat := by
  obtain ⟨i, hi⟩ := List.getElem?_of_mem hmem
  have hlen := leafPath_length_le h hbuilt hheap hi
  have hentry := assigned_entry h.leavesOk hheap hi
  rw [codeOf_of_entryFor hlen hentry, hentry, entryFor_len hlen]
  exact ⟨hlen, rfl⟩

/-- TOTBITS fits its register: no code is longer than 255 bits. -/
theorem assigned_totbits : s.assignHuffman.totbits.toNat = leafTotbits s.leaves s.assignHuffman.cb := by
  have hfit := leafTotal_lt h.leavesOk
  have hle : leafTotbits s.leaves s.assignHuffman.cb ≤ leafTotal s.leaves * 255 := by
    rw [leafTotal, ← List.sum_map_mul_right]
    refine List.sum_le_sum fun n hmem => Nat.mul_le_mul_left _ ?_
    exact (assigned_len h hbuilt hheap hmem).1
  rw [assignHuffman_totbits, ← assignHuffman_cb, BitVec.toNat_ofNat, Nat.mod_eq_of_lt (by omega)]

end

/-- Settles O36: the entries are those of the leaves' paths, which the tree has and `pathTo` finds. -/
theorem assignReadsLeafPaths : Obligations.AssignReadsLeafPaths := by
  intro s hf
  refine ⟨fun hbuilt => runGated_of_reject hf (htbAssignRule_of_built hbuilt),
    fun hbuilt hn => runGated_of_reject hf (htbAssignRule_of_empty hbuilt hn),
    fun hbuilt hn hkeys => runGated_of_reject hf (htbAssignRule_of_keys hbuilt hn hkeys),
    fun k h hbuilt hn hheap => ?_⟩
  have htop := heapTop_of_singleton hheap
  refine ⟨s.assignHuffman.cb, s.assignHuffman.total, s.assignHuffman.totbits, ?_, fun i n hi => ?_, fun sym hno => ?_,
    assigned_total h.leavesOk, assigned_totbits h hbuilt hheap⟩
  · rw [exec_htbAssign hf hbuilt hn (by rw [hheap, List.length_singleton]), ← htop, BitVec.ofNat_toNat]
    rfl
  · obtain ⟨p, hp, hlen, hpath⟩ := leafPath_spec h hbuilt hheap hi
    have hfit := leafPath_length_le h hbuilt hheap hi
    have hentry := assigned_entry h.leavesOk hheap hi
    refine ⟨p, hp, hlen, hpath ▸ codeOf_of_entryFor hfit hentry, ?_⟩
    rw [hentry, entryFor_bits hfit, entryFor_len hfit]
    exact bitsVal_lt _
  · exact cbEntry_assignCodes_of_no_leaf _ hno

end Sys2Proof.Machine
end

/-! PROOF. TOTAL and TOTBITS (`42_huffman_tree_builder.md` R204). Every node but the root is the child of one internal
node, one bit deeper, and the children of an internal node weigh what it does: so the weights times the depths, summed
over all nodes, are the internal nodes' weights times their depths plus one. -/

section
namespace Sys2Proof.Machine

/-! ### Depths -/

/-- The length of the path to node number i, 0 when there is none. -/
def depthOf (nodes : List Node) (root : NodeId) (i : Nat) : Nat :=
  ((pathTo nodes nodes.length root.toNat i).getD []).length

theorem Tree.depthOf_of_walk {nodes : List Node} {root : NodeId} (h : Tree nodes root) {v : NodeId} {p : List Bool}
    (hp : walk nodes root p = some v) : depthOf nodes root v.toNat = p.length := by
  rw [depthOf, h.pathTo_eq_some_iff.2 hp, Option.getD_some]

theorem Tree.depthOf_root {nodes : List Node} {root : NodeId} (h : Tree nodes root) :
    depthOf nodes root root.toNat = 0 :=
  h.depthOf_of_walk (p := []) rfl

theorem Tree.depthOf_child {nodes : List Node} {root : NodeId} (h : Tree nodes root) {m v : NodeId} {b : Bool}
    (hc : Child nodes m b v) : depthOf nodes root v.toNat = depthOf nodes root m.toNat + 1 := by
  obtain ⟨p, hp⟩ := h.exists_walk m hc.parent_lt
  rw [h.depthOf_of_walk hp, h.depthOf_of_walk (walk_concat_iff.2 ⟨m, hp, hc⟩), List.length_append,
    List.length_singleton]

/-! ### Sums over the arena -/

/-- A sum over the node ids is the root's part and the children's. -/
theorem Tree.sum_ids {nodes : List Node} {root : NodeId} (h : Tree nodes root) (f : NodeId → Nat) :
    (nodes.zipIdx.map fun p => f (BitVec.ofNat 16 p.2)).sum = f root + ((childIds nodes).map f).sum := by
  have hids : nodes.zipIdx.map (fun p => f (BitVec.ofNat 16 p.2)) =
      ((List.range nodes.length).map (BitVec.ofNat 16)).map f := by
    rw [List.range_eq_range', ← List.zipIdx_map_snd, List.map_map, List.map_map]
    rfl
  rw [hids, ← (h.ids.map f).sum_eq, List.map_cons, List.sum_cons]

theorem sum_childIds (nodes : List Node) (f : NodeId → Nat) :
    ((childIds nodes).map f).sum = (nodes.map fun n => if n.leaf then 0 else f n.left + f n.right).sum := by
  induction nodes with
  | nil => rfl
  | cons n nodes ih =>
    have hcons : childIds (n :: nodes) = (if n.leaf then [] else [n.left, n.right]) ++ childIds nodes := rfl
    rw [hcons, List.map_append, List.sum_append, ih, List.map_cons, List.sum_cons]
    cases n.leaf <;> simp

theorem sum_zipIdx_fst {α : Type} (l : List α) (n : Nat) (f : α → Nat) :
    ((l.zipIdx n).map fun p => f p.1).sum = (l.map f).sum := by
  rw [← List.zipIdx_map_fst n l, List.map_map, List.zipIdx_map_fst]
  rfl

/-- The weight of the node with an id, 0 when there is none. -/
def nodeWeight (nodes : List Node) (id : NodeId) : Nat := ((weightOf nodes id).getD 0).toNat

/-- All weights times depths are the internal nodes' weights times depths plus one. -/
theorem Tree.sum_weight_depth {nodes : List Node} {root : NodeId} (h : Tree nodes root)
    (hchildren : ChildrenOk nodes) :
    (nodes.zipIdx.map fun p => p.1.weight.toNat * depthOf nodes root p.2).sum =
      (nodes.zipIdx.map fun p =>
        if p.1.leaf then 0 else p.1.weight.toNat * depthOf nodes root p.2 + p.1.weight.toNat).sum := by
  have hnode : ∀ p ∈ nodes.zipIdx, (BitVec.ofNat 16 p.2).toNat = p.2 ∧ nodes[p.2]? = some p.1 := fun p hp =>
    ⟨toNat_nodeId ((List.snd_lt_of_mem_zipIdx hp).trans h.size), List.mem_zipIdx_iff_getElem?.1 hp⟩
  have hsum := h.sum_ids fun v => nodeWeight nodes v * depthOf nodes root v.toNat
  rw [h.depthOf_root, Nat.mul_zero, Nat.zero_add, sum_childIds, ← sum_zipIdx_fst nodes 0] at hsum
  refine Eq.trans (congrArg List.sum (List.map_congr_left fun p hp => ?_))
    (hsum.trans (congrArg List.sum (List.map_congr_left fun p hp => ?_)))
  · obtain ⟨hid, hp⟩ := hnode p hp
    rw [nodeWeight, weightOf_eq_some (n := p.1) (by rwa [hid]), hid, Option.getD_some]
  · split_ifs with hleaf
    · rfl
    · obtain ⟨hid, hget⟩ := hnode p hp
      rw [Bool.not_eq_true] at hleaf
      have hl : Child nodes (BitVec.ofNat 16 p.2) false p.1.left := ⟨p.1, by rwa [hid], hleaf, rfl⟩
      have hr : Child nodes (BitVec.ofNat 16 p.2) true p.1.right := ⟨p.1, by rwa [hid], hleaf, rfl⟩
      obtain ⟨-, -, hw⟩ := hchildren p hp hleaf
      rw [h.depthOf_child hl, h.depthOf_child hr, hid, ← Nat.add_mul, nodeWeight, nodeWeight, ← hw, Nat.mul_succ]

/-! ### The totals -/

theorem leaves_append_inner (s : State) : s.leaves ++ s.nodes.drop s.nleaf = s.nodes :=
  List.take_append_drop s.nleaf s.nodes

/-- In a tree the leaves' weights times depths are the weights of the internal nodes. -/
theorem sum_leaf_weight_depth {s : State} {k : HeapKey} (h : BuilderOk s) (hheap : s.heap = [k]) :
    (s.leaves.zipIdx.map fun p => p.1.weight.toNat * depthOf s.nodes k.id p.2).sum =
      ((s.nodes.drop s.nleaf).map fun n => n.weight.toNat).sum := by
  have htree := tree_of_builderOk h hheap
  obtain ⟨⟨-, hleaf, -, hinner⟩, -, -, -, hchildren, -⟩ := h
  have hsum := htree.sum_weight_depth hchildren
  generalize depthOf s.nodes k.id = depth at hsum ⊢
  rw [← leaves_append_inner s, List.zipIdx_append, List.map_append, List.map_append, List.sum_append,
    List.sum_append] at hsum
  have hleaves : (s.leaves.zipIdx.map fun p =>
      if p.1.leaf then 0 else p.1.weight.toNat * depth p.2 + p.1.weight.toNat).sum = 0 := by
    refine List.sum_eq_zero fun w hw => ?_
    obtain ⟨p, hp, rfl⟩ := List.mem_map.1 hw
    exact if_pos (hleaf p.1 (List.fst_mem_of_mem_zipIdx hp)).1
  have hnodes : ((s.nodes.drop s.nleaf).zipIdx (0 + s.leaves.length)).map (fun p =>
      if p.1.leaf then 0 else p.1.weight.toNat * depth p.2 + p.1.weight.toNat) =
      ((s.nodes.drop s.nleaf).zipIdx (0 + s.leaves.length)).map fun p =>
        p.1.weight.toNat * depth p.2 + p.1.weight.toNat :=
    List.map_congr_left fun p hp => if_neg (by simp [(hinner p.1 (List.fst_mem_of_mem_zipIdx hp)).1])
  rw [hleaves, hnodes, List.sum_map_add, sum_zipIdx_fst _ _ fun n : Node => n.weight.toNat] at hsum
  omega

/-- What R204 says of TOTAL and TOTBITS. -/
structure TotalsExact (t : State) : Prop where
  total : t.total.toNat = leafTotal t.leaves
  totbits : t.totbits.toNat = leafTotbits t.leaves t.cb
  code_length : ∀ n ∈ t.leaves, ((codeOf t.cb n.sym).getD []).length = (cbEntry t.cb n.sym).len.toNat
  root : ∃ n, t.nodes[t.root.toNat]? = some n ∧ n.weight.toNat = t.total.toNat
  inner : 2 ≤ t.nleaf → t.totbits.toNat = ((t.nodes.drop t.nleaf).map fun n => n.weight.toNat).sum
  one_leaf : t.nleaf = 1 → t.totbits = t.total

/-- The leaves weighted with their code lengths, leaf by leaf. -/
theorem assigned_leafTotbits {s : State} {k : HeapKey} (h : BuilderOk s) (hbuilt : s.phase ≠ .built)
    (hheap : s.heap = [k]) :
    leafTotbits s.leaves s.assignHuffman.cb =
      (s.leaves.zipIdx.map fun p => p.1.weight.toNat * (leafPath s.nodes s.nleaf k.id p.2).length).sum := by
  rw [leafTotbits, ← sum_zipIdx_fst _ 0]
  refine congrArg List.sum (List.map_congr_left fun p hp => ?_)
  have hi := List.mem_zipIdx_iff_getElem?.1 hp
  rw [assigned_entry h.leavesOk hheap hi, entryFor_len (leafPath_length_le h hbuilt hheap hi)]

theorem assigned_totalsExact {s : State} {k : HeapKey} (h : BuilderOk s) (hbuilt : s.phase ≠ .built)
    (hheap : s.heap = [k]) : TotalsExact s.assignHuffman := by
  have htotal := assigned_total h.leavesOk
  have htotbits := assigned_totbits h hbuilt hheap
  refine ⟨htotal, htotbits, fun n hmem => (assigned_len h hbuilt hheap hmem).2, ?_, fun htwo => ?_,
    fun hone => ?_⟩
  · obtain ⟨-, -, -, hweights, -, hsum⟩ := h
    obtain ⟨n, hroot, hw⟩ := Option.map_eq_some_iff.1 (hweights k (by simp [hheap]))
    refine ⟨n, by rwa [assignHuffman_root, heapTop_of_singleton hheap], ?_⟩
    rw [htotal, ← hsum, hheap, hw, List.map_singleton, List.sum_singleton]
  · have hmany : s.nleaf ≠ 1 := by
      rw [assignHuffman_nleaf] at htwo
      omega
    rw [htotbits, assigned_leafTotbits h hbuilt hheap, assignHuffman_nodes, assignHuffman_nleaf,
      ← sum_leaf_weight_depth h hheap]
    simp only [leafPath, if_neg hmany, depthOf]
  · rw [assignHuffman_nleaf] at hone
    refine BitVec.eq_of_toNat_eq ?_
    rw [htotbits, assigned_leafTotbits h hbuilt hheap, htotal, leafTotal, ← sum_zipIdx_fst s.leaves 0]
    simp only [leafPath, if_pos hone, List.length_singleton, Nat.mul_one]

/-- HTB.BUILD, and HTB.ASSIGN where one key is left, assign the codes of a merged table with the same leaves. -/
theorem exec_assigns {s : State} {i : Instr} (h : BuilderOk s) (hf : s.faulted = false) (hbuilt : s.phase ≠ .built)
    (hn : s.nleaf ≠ 0) (hi : i = .htbBuild ∨ (i = .htbAssign ∧ s.heap.length = 1)) :
    ∃ m d, exec i s = .next (m.assignHuffman.answer 0 d) ∧ BuilderOk m ∧ m.phase ≠ .built ∧
      m.heap.length = 1 ∧ m.leaves = s.leaves ∧ m.nleaf = s.nleaf := by
  rcases hi with rfl | ⟨rfl, hlast⟩
  · have hone := one_le_heap_length h.countsOk hbuilt hn
    exact ⟨_, _, exec_htbBuild hf hbuilt hn, mergeAll_builderOk s.heap.length h hbuilt hone (Nat.le_succ _)⟩
  · exact ⟨s, _, exec_htbAssign hf hbuilt hn hlast, h, hbuilt, hlast, rfl, rfl⟩

/-- Settles O39: either command assigns the codes of a merged table, whose totals are exact. -/
theorem totalsAreExact : Obligations.TotalsAreExact := by
  intro s i h hf hbuilt hn hi
  obtain ⟨m, d, hexec, hm, hopen, hlast, hleaves, hnleaf⟩ := exec_assigns h hf hbuilt hn hi
  obtain ⟨k, hk⟩ := List.length_eq_one_iff.1 hlast
  obtain ⟨htotal, htotbits, hlength, hroot, hinner, hone⟩ := assigned_totalsExact hm hopen hk
  refine ⟨_, hexec, answer_err _ _ _, hleaves, hnleaf, htotal, htotbits.trans ?_,
    fun htwo => ⟨hroot, hinner (hnleaf ▸ htwo)⟩, fun h1 => hone (hnleaf.trans h1)⟩
  exact congrArg List.sum (List.map_congr_left fun n hmem => by rw [← hlength n hmem]; rfl)

end Sys2Proof.Machine
end

/-! PROOF. The steps of the LZW encoder (`43_lzw_dict_accumulator.md` R226, R229): LZW.EBYTE extends the match or emits
it, LZW.EFLUSH emits it, and an emitted code is stored at CLEN. -/

section
namespace Sys2Proof.Machine

/-! ### One byte -/

/-- The code of the match with c after it, when there is one: of c itself when there is no match. -/
def extendMatch (d : List DictEntry) (ew : Option Code) (c : Byte) : Option Code :=
  match ew with
  | none => some (c.setWidth 16)
  | some w => dictFind d w c

theorem mustEmit_of_extends {s : State} {c : Byte} {k : Code} (h : extendMatch s.edict s.ew c = some k) :
    s.mustEmit c = none := by
  cases hw : s.ew with
  | none => simp [State.mustEmit, hw]
  | some w =>
    rw [hw] at h
    simp [State.mustEmit, hw, show dictFind s.edict w c = some k from h]

theorem encodeByte_of_extends {s : State} {c : Byte} {k : Code} (h : extendMatch s.edict s.ew c = some k) :
    s.encodeByte c = { s with ew := some k } := by
  cases hw : s.ew with
  | none =>
    rw [hw] at h
    obtain rfl := Option.some.inj h
    simp [State.encodeByte, hw]
  | some w =>
    rw [hw] at h
    simp [State.encodeByte, hw, show dictFind s.edict w c = some k from h]

theorem mustEmit_of_new {s : State} {c : Byte} {w : Code} (hw : s.ew = some w) (hnew : ⟨w, c⟩ ∉ s.edict) :
    s.mustEmit c = some w := by
  simp [State.mustEmit, hw, dictFind_none.2 hnew]

theorem encodeByte_of_new {s : State} {c : Byte} {w : Code} (hw : s.ew = some w) (hnew : ⟨w, c⟩ ∉ s.edict) :
    s.encodeByte c =
      { s.emitCode w with edict := dictAdd s.lzwCap s.edict ⟨w, c⟩, ew := some (c.setWidth 16) } := by
  simp only [State.encodeByte, hw, dictFind_none.2 hnew]

/-- Either the match goes on, or it is a code that the byte must not follow. -/
theorem extends_or_new (s : State) (c : Byte) :
    (∃ k, extendMatch s.edict s.ew c = some k) ∨ ∃ w, s.ew = some w ∧ ⟨w, c⟩ ∉ s.edict := by
  cases hw : s.ew with
  | none => exact .inl ⟨_, rfl⟩
  | some w =>
    cases hk : dictFind s.edict w c with
    | some k => exact .inl ⟨k, hk⟩
    | none => exact .inr ⟨w, rfl, dictFind_none.1 hk⟩

/-! ### How LZW.EBYTE and LZW.EFLUSH end -/

theorem lzwEbyteRule_of_extends {s : State} {c : Byte} {k : Code} (ha : s.eActive = true)
    (h : extendMatch s.edict s.ew c = some k) : lzwEbyteRule c s = .success (s.encodeByte c) 0 := by
  simp [lzwEbyteRule, ha, mustEmit_of_extends h]

theorem lzwEbyteRule_of_full {s : State} {c : Byte} {w : Code} (ha : s.eActive = true) (hw : s.ew = some w)
    (hnew : ⟨w, c⟩ ∉ s.edict) (hfull : s.clen.toNat = s.cfg.cbufWords) : lzwEbyteRule c s = .reject .capacity := by
  simp [lzwEbyteRule, ha, mustEmit_of_new hw hnew, hfull]

theorem lzwEbyteRule_of_new {s : State} {c : Byte} {w : Code} (ha : s.eActive = true) (hw : s.ew = some w)
    (hnew : ⟨w, c⟩ ∉ s.edict) (hroom : s.clen.toNat ≠ s.cfg.cbufWords) :
    lzwEbyteRule c s = .success (s.encodeByte c) (emittedWord w) := by
  simp [lzwEbyteRule, ha, mustEmit_of_new hw hnew, hroom]

theorem encoderFlush_of_none {s : State} (hw : s.ew = none) : s.encoderFlush = { s with eActive := false } := by
  simp only [State.encoderFlush, hw]

theorem encoderFlush_of_some {s : State} {e : Code} (hw : s.ew = some e) :
    s.encoderFlush = { s.emitCode e with ew := none, eActive := false } := by
  simp only [State.encoderFlush, hw]

theorem lzwEflushRule_of_none {s : State} (ha : s.eActive = true) (hw : s.ew = none) :
    lzwEflushRule s = .success s.encoderFlush 0 := by
  simp [lzwEflushRule, ha, hw]

theorem lzwEflushRule_of_full {s : State} {e : Code} (ha : s.eActive = true) (hw : s.ew = some e)
    (hfull : s.clen.toNat = s.cfg.cbufWords) : lzwEflushRule s = .reject .capacity := by
  simp [lzwEflushRule, ha, hw, hfull]

theorem lzwEflushRule_of_some {s : State} {e : Code} (ha : s.eActive = true) (hw : s.ew = some e)
    (hroom : s.clen.toNat ≠ s.cfg.cbufWords) : lzwEflushRule s = .success s.encoderFlush (emittedWord e) := by
  simp [lzwEflushRule, ha, hw, hroom]

/-! ### The emitted code -/

/-- The emitted code is stored at CLEN and nowhere else. -/
theorem cbufRead_emitCode (s : State) (e : Code) (a : Nat) :
    (s.emitCode e).cbufRead a = if a = s.clen.toNat then e else s.cbufRead a :=
  cbufRead_cbufWrite s s.clen.toNat a e

/-- `{0[31:17], 1, e[15:0]}` as a number (`43_lzw_dict_accumulator.md` R226). -/
theorem emittedWord_eq (e : Code) : emittedWord e = BitVec.ofNat 32 (2 ^ 16 + e.toNat) := by
  refine eq_ofNat_of_toNat_eq ?_
  rw [emittedWord, toNat_append_eq_add]
  rfl

/-- The code of the entry stored at one place is found by its pair. -/
theorem dictFind_of_stored {d : List DictEntry} (hnodup : d.Nodup) {j : Nat} {w : Code} {c : Byte}
    (h : d[j]? = some ⟨w, c⟩) : dictFind d w c = some (BitVec.ofNat 16 (256 + j)) := by
  cases hk : dictFind d w c with
  | none => exact absurd (List.mem_of_getElem? h) (dictFind_none.1 hk)
  | some k =>
    obtain ⟨i, hi, rfl⟩ := dictFind_some hk
    obtain ⟨hlt, -⟩ := List.getElem?_eq_some_iff.1 hi
    rw [(List.getElem?_inj hlt hnodup).1 (hi.trans h.symm)]

/-- Settles O42: the match goes on with the byte, or is emitted and starts again. -/
theorem encoderStepFollowsItsRule : Obligations.EncoderStepFollowsItsRule := by
  intro s c hf
  refine ⟨fun ha => runGated_of_reject hf (if_pos ha), fun ha hw => ?start, fun w j ha hw hnodup hj => ?found,
    fun w ha hw hnew => ⟨fun hfull => runGated_of_reject hf (lzwEbyteRule_of_full ha hw hnew hfull),
      fun hroom => ⟨s.encodeByte c, ?_, ?_, ?_⟩⟩⟩
  case start =>
    have h : extendMatch s.edict s.ew c = some (BitVec.ofNat 16 c.toNat) := by
      rw [hw, BitVec.ofNat_toNat]
      rfl
    rw [← encodeByte_of_extends h]
    exact runGated_of_success hf (lzwEbyteRule_of_extends ha h)
  case found =>
    have h : extendMatch s.edict s.ew c = some (BitVec.ofNat 16 (256 + j)) := by
      rw [hw]
      exact dictFind_of_stored hnodup hj
    rw [← encodeByte_of_extends h]
    exact runGated_of_success hf (lzwEbyteRule_of_extends ha h)
  · rw [← emittedWord_eq]
    exact runGated_of_success hf (lzwEbyteRule_of_new ha hw hnew hroom)
  · rw [encodeByte_of_new hw hnew, BitVec.ofNat_toNat]
    rfl
  · rw [encodeByte_of_new hw hnew]
    exact cbufRead_emitCode s w

/-- Settles O43: the flush emits the match if there is one. -/
theorem encoderFlushFollowsItsRule : Obligations.EncoderFlushFollowsItsRule := by
  intro s hf
  refine ⟨fun ha => runGated_of_reject hf (if_pos ha), fun ha hw => ?none,
    fun e ha hw => ⟨fun hfull => runGated_of_reject hf (lzwEflushRule_of_full ha hw hfull),
      fun hroom => ⟨s.encoderFlush, ?_, ?_, ?_⟩⟩⟩
  case none =>
    rw [← encoderFlush_of_none hw]
    exact runGated_of_success hf (lzwEflushRule_of_none ha hw)
  · rw [← emittedWord_eq]
    exact runGated_of_success hf (lzwEflushRule_of_some ha hw hroom)
  · rw [encoderFlush_of_some hw]
    rfl
  · rw [encoderFlush_of_some hw]
    exact cbufRead_emitCode s e

end Sys2Proof.Machine
end

/-! PROOF. The steps of the LZW decoder (`43_lzw_dict_accumulator.md` R236): a bad code is a fault that changes nothing,
any other code emits its sequence. -/

section
namespace Sys2Proof.Machine

/-! ### The sequence of a code -/

theorem decoderEntry_of_known {s : State} (p : Code) {k : Code} (h : k.toNat < 256 + s.ddict.length) :
    s.decoderEntry p k = some (codeString s.ddict k) :=
  if_pos h

/-- The self-referential case (`43_lzw_dict_accumulator.md` R237). -/
theorem decoderEntry_of_next {s : State} (p : Code) {k : Code} (h : k.toNat = 256 + s.ddict.length)
    (hgrows : 256 + s.ddict.length < s.lzwCap.toNat) :
    s.decoderEntry p k = some (codeString s.ddict p ++ [firstByte (codeString s.ddict p)]) :=
  (if_neg h.not_lt).trans (if_pos ⟨h, hgrows⟩)

theorem decoderEntry_of_bad {s : State} (p : Code) {k : Code}
    (h : 256 + s.ddict.length < k.toNat ∨ 256 + s.ddict.length = k.toNat ∧ s.lzwCap.toNat ≤ 256 + s.ddict.length) :
    s.decoderEntry p k = none := by
  unfold State.decoderEntry State.dnext
  rw [if_neg (by omega), if_neg (by omega)]

/-! ### One code -/

theorem decodeCode_first_bad {s : State} {k : Code} (hp : s.dprev = none) (hk : 256 ≤ k.toNat) :
    decodeCode k s = .fault s .lzwBadCode (k.setWidth 32) := by
  simp [decodeCode, hp, hk]

theorem decodeCode_first {s : State} {k : Code} (hp : s.dprev = none) (hk : k.toNat < 256) :
    decodeCode k s = emitEntry s [k.setWidth 8] s.ddict k := by
  simp [decodeCode, hp, hk]

theorem decodeCode_bad {s : State} {p k : Code} (hp : s.dprev = some p) (h : s.decoderEntry p k = none) :
    decodeCode k s = .fault s .lzwBadCode (k.setWidth 32) := by
  simp only [decodeCode, hp, h]

theorem decodeCode_entry {s : State} {p k : Code} {entry : List Byte} (hp : s.dprev = some p)
    (h : s.decoderEntry p k = some entry) :
    decodeCode k s = emitEntry s entry (dictAdd s.lzwCap s.ddict ⟨p, firstByte entry⟩) k := by
  simp only [decodeCode, hp, h]

theorem emitEntry_of_overflow {s : State} {entry : List Byte} (d : List DictEntry) (k : Code)
    (h : s.cfg.obufBytes < s.obuf.length + entry.length) : emitEntry s entry d k = .reject .capacity :=
  if_pos h

theorem emitEntry_of_fits {s : State} {entry : List Byte} (d : List DictEntry) (k : Code)
    (h : s.obuf.length + entry.length ≤ s.cfg.obufBytes) :
    emitEntry s entry d k =
      .success { s with obuf := s.obuf ++ entry, ddict := d, dprev := some k } (word32 entry.length) :=
  if_neg (Nat.not_lt.2 h)

/-- The three shapes `decodeCode` can end in. -/
theorem decodeCode_cases (k : Code) (s : State) :
    decodeCode k s = .fault s .lzwBadCode (k.setWidth 32) ∨ decodeCode k s = .reject .capacity ∨
    ∃ entry d, decodeCode k s =
      .success { s with obuf := s.obuf ++ entry, ddict := d, dprev := some k } (word32 entry.length) := by
  have hemit : ∀ entry d, decodeCode k s = emitEntry s entry d k →
      decodeCode k s = .reject .capacity ∨ ∃ entry d, decodeCode k s =
        .success { s with obuf := s.obuf ++ entry, ddict := d, dprev := some k } (word32 entry.length) :=
    fun entry d h => (emitEntry_cases s entry d k).imp (fun hc => h.trans hc.2) fun hc => ⟨entry, d, h.trans hc.2⟩
  cases hp : s.dprev with
  | none =>
    rcases Nat.lt_or_ge k.toNat 256 with hk | hk
    · exact .inr (hemit _ _ (decodeCode_first hp hk))
    · exact .inl (decodeCode_first_bad hp hk)
  | some p =>
    cases he : s.decoderEntry p k with
    | none => exact .inl (decodeCode_bad hp he)
    | some entry => exact .inr (hemit _ _ (decodeCode_entry hp he))

/-- Within a session LZW.DCODE is the decoding of its code. -/
theorem lzwDcodeRule_of_active {s : State} (k : Code) (ha : s.dActive = true) :
    lzwDcodeRule k s = decodeCode k s := by
  simp [lzwDcodeRule, ha]

/-- A code that is decoded to a sequence emits it, or is refused when it does not fit. -/
theorem exec_lzwDcode_of_emits {s : State} {k : Code} {entry : List Byte} {d : List DictEntry}
    (hf : s.faulted = false) (ha : s.dActive = true) (h : decodeCode k s = emitEntry s entry d k) :
    (s.cfg.obufBytes < s.obuf.length + entry.length → exec (.lzwDcode k) s = .next (s.refuse .capacity)) ∧
    (s.obuf.length + entry.length ≤ s.cfg.obufBytes → exec (.lzwDcode k) s =
      .next ({ s with obuf := s.obuf ++ entry, dprev := some k, ddict := d }.answer 0 (word32 entry.length))) := by
  have hrule := (lzwDcodeRule_of_active k ha).trans h
  exact ⟨fun hfull => runGated_of_reject hf (hrule.trans (emitEntry_of_overflow d k hfull)),
    fun hroom => runGated_of_success hf (hrule.trans (emitEntry_of_fits d k hroom))⟩

/-- A bad code faults with its number. -/
theorem exec_lzwDcode_of_bad {s : State} {k : Code} (hf : s.faulted = false) (ha : s.dActive = true)
    (h : decodeCode k s = .fault s .lzwBadCode (k.setWidth 32)) :
    exec (.lzwDcode k) s = .next (s.fail .lzwBadCode (BitVec.ofNat 32 k.toNat)) := by
  have hrun : exec (.lzwDcode k) s = .next (finish s (lzwDcodeRule k s)) := runGated_unfaulted hf
  rw [hrun, lzwDcodeRule_of_active k ha, h, BitVec.ofNat_toNat]
  rfl

/-- Settles O46: each code is bad, or its sequence is known, or the previous one with its first byte. -/
theorem decoderStepFollowsItsRule : Obligations.DecoderStepFollowsItsRule := by
  intro s k hf
  refine ⟨fun ha => runGated_of_reject hf (if_pos ha), fun ha hp => ⟨fun hk => ?_, fun hk hfull => ?_,
    fun hk hroom => ?_⟩, fun p ha hp => ⟨fun hbad => ?_, fun b l entry hentry hcode => ?_⟩⟩
  · exact exec_lzwDcode_of_bad hf ha (decodeCode_first_bad hp hk)
  · exact (exec_lzwDcode_of_emits hf ha (decodeCode_first hp hk)).1 hfull
  · rw [BitVec.ofNat_toNat]
    exact (exec_lzwDcode_of_emits hf ha (decodeCode_first hp hk)).2 hroom
  · exact exec_lzwDcode_of_bad hf ha (decodeCode_bad hp (decoderEntry_of_bad p hbad))
  · have hknown : s.decoderEntry p k = some entry := by
      rcases hcode with ⟨hk, rfl⟩ | ⟨hk, hgrows, l', hprev, rfl⟩
      · exact decoderEntry_of_known p hk
      · rw [decoderEntry_of_next p hk hgrows, hprev]
        rfl
    have hfirst : firstByte entry = b := by
      rw [hentry]
      rfl
    have hemits := decodeCode_entry hp hknown
    rw [hfirst] at hemits
    exact exec_lzwDcode_of_emits hf ha hemits

end Sys2Proof.Machine
end

/-! PROOF. LZW.DEC code by code (`43_lzw_dict_accumulator.md` R240): successful LZW.DCODE commands leave, but for the
record, what the loop of LZW.DEC has after their codes. -/

section
namespace Sys2Proof.Machine

/-! ### The result behind a response -/

theorem success_of_err {s : State} {r : CmdResult} (h : (finish s r).err = some 0) :
    ∃ t d, r = .success t d := by
  cases r with
  | success t d => exact ⟨t, d, rfl⟩
  | reject code =>
    rw [finish_reject, answer_err] at h
    cases code <;> exact absurd h (by decide)
  | fault t code info =>
    rw [finish_fault, answer_err] at h
    cases code <;> exact absurd h (by decide)

theorem badCode_of_err {s : State} {r : CmdResult} (h : (finish s r).err = some 0x80) :
    ∃ t info, r = .fault t .lzwBadCode info := by
  cases r with
  | success t d => exact absurd ((answer_err t 0 d).symm.trans h) (by decide)
  | reject code =>
    rw [finish_reject, answer_err] at h
    cases code <;> exact absurd h (by decide)
  | fault t code info =>
    rw [finish_fault, answer_err] at h
    cases code
    case lzwBadCode => exact ⟨t, info, rfl⟩
    all_goals exact absurd h (by decide)

theorem capacity_of_err {s : State} {r : CmdResult} (h : (finish s r).err = some 0x0A) : r = .reject .capacity := by
  cases r with
  | success t d => exact absurd ((answer_err t 0 d).symm.trans h) (by decide)
  | reject code =>
    rw [finish_reject, answer_err] at h
    cases code
    case capacity => rfl
    all_goals exact absurd h (by decide)
  | fault t code info =>
    rw [finish_fault, answer_err] at h
    cases code <;> exact absurd h (by decide)

/-- The part of the record that a command leaves when it succeeds. -/
def State.latched (s : State) : Bool × BitVec 8 × Word32 × List HostInput × List Word64 :=
  (s.faulted, s.errcode, s.errinfo, s.inputs, s.responses)

/-- Where that part is the same, only CMDCNT and the response are left of the record. -/
theorem withRecordOf_of_latched {s u : State} (h : u.latched = s.latched) :
    u.withRecordOf s = { u with cmdcnt := s.cmdcnt, rsp := s.rsp } := by
  simp only [State.latched, Prod.mk.injEq] at h
  obtain ⟨hfault, hcode, hinfo, hin, hout⟩ := h
  rw [State.withRecordOf, ← hfault, ← hcode, ← hinfo, ← hin, ← hout]

theorem faulted_of_latched {s u : State} (h : u.latched = s.latched) : u.faulted = s.faulted :=
  congrArg Prod.fst h

/-! ### One LZW.DCODE and one turn of the loop -/

/-- In a session LZW.DCODE ends in what the decoding of its code ends in. -/
theorem exec_lzwDcode {s : State} (k : Code) (hf : s.faulted = false) (ha : s.dActive = true) :
    exec (.lzwDcode k) s = .next (finish s (decodeCode k s)) := by
  rw [← lzwDcodeRule_of_active k ha]
  exact runGated_unfaulted hf

/-- Behind an open fault gate LZW.DEC ends in what its loop ends in. -/
theorem exec_lzwDec {s : State} (hf : s.faulted = false) :
    exec .lzwDec s = .next (finish s (decodeCodes s.inputCodes 0 s.decoderInit)) :=
  runGated_unfaulted (rule := fun s => decodeCodes s.inputCodes 0 s.decoderInit) hf

/-- A code that succeeds leaves the session open and the record as it was. -/
theorem decodeCode_success {s t : State} {k : Code} {d : Word32} (h : decodeCode k s = .success t d) :
    t.dActive = s.dActive ∧ t.withRecordOf s = t := by
  obtain hc | hc | ⟨entry, dict, hc⟩ := decodeCode_cases k s <;> rw [hc] at h <;> cases h
  exact ⟨rfl, rfl⟩

/-- A bad code changes nothing. -/
theorem decodeCode_fault {s t : State} {k : Code} {code : FaultCode} {info : Word32}
    (h : decodeCode k s = .fault t code info) : t = s := by
  obtain hc | hc | ⟨entry, dict, hc⟩ := decodeCode_cases k s <;> rw [hc] at h <;> cases h
  rfl

/-- A successful LZW.DCODE leaves what the decoding of its code leaves, but for CMDCNT and the response. -/
theorem decodeCode_of_exec {s t : State} {k : Code} (hf : s.faulted = false) (ha : s.dActive = true)
    (h : exec (.lzwDcode k) s = .next t) (herr : t.err = some 0) :
    (∃ d, decodeCode k s = .success (t.withRecordOf s) d) ∧ t.dActive = true ∧ t.latched = s.latched := by
  obtain rfl := Host.Outcome.next.inj ((exec_lzwDcode k hf ha).symm.trans h)
  obtain ⟨u, d, hu⟩ := success_of_err herr
  obtain ⟨hactive, hrecord⟩ := decodeCode_success hu
  rw [hu, finish_success]
  refine ⟨⟨d, ?_⟩, hactive.trans ha, ?_⟩
  · rw [← hrecord]
    rfl
  · rw [← hrecord]
    rfl

/-! ### All codes -/

/-- After successful LZW.DCODE commands the loop of LZW.DEC goes on from the state they left. -/
theorem decodeCodes_of_succeedAll (ks rest : List Code) (j : Nat) {s u : State} (hf : s.faulted = false)
    (ha : s.dActive = true) (h : succeedAll (ks.map .lzwDcode) s = some u) :
    decodeCodes (ks ++ rest) j s = decodeCodes rest (j + ks.length) (u.withRecordOf s) ∧ u.dActive = true ∧
      u.latched = s.latched := by
  induction ks generalizing s j with
  | nil =>
    obtain rfl := Option.some.inj h
    exact ⟨rfl, ha, rfl⟩
  | cons k ks ih =>
    obtain ⟨t, ht, herr, hrest⟩ := exec_of_succeedAll_cons h
    obtain ⟨⟨d, hdecode⟩, hat, hlatched⟩ := decodeCode_of_exec hf ha ht herr
    obtain ⟨hloop, hau, hlatchedu⟩ := ih (j + 1) ((faulted_of_latched hlatched).trans hf) hat hrest
    refine ⟨?_, hau, hlatchedu.trans hlatched⟩
    calc decodeCodes (k :: ks ++ rest) j s
        = decodeCodes (ks ++ rest) (j + 1) (t.withRecordOf s) := by rw [List.cons_append, decodeCodes, hdecode]
      _ = (decodeCodes rest (j + 1 + ks.length) (u.withRecordOf t)).withRecordOf s := by
          rw [decodeCodes_ignoresRecord, hloop]
      _ = decodeCodes rest (j + (k :: ks).length) (u.withRecordOf s) := by
          rw [← decodeCodes_ignoresRecord, List.length_cons, Nat.add_assoc, Nat.add_comm 1]
          rfl

/-- LZW.DINIT and successful LZW.DCODE commands leave a state from which the loop of LZW.DEC decodes the rest. -/
theorem exec_lzwDec_of_succeedAll {s u : State} (hf : s.faulted = false) (ks rest : List Code)
    (hcodes : s.inputCodes = ks ++ rest) (h : succeedAll (.lzwDinit :: ks.map .lzwDcode) s = some u) :
    exec .lzwDec s = .next (finish s (decodeCodes rest ks.length { u with cmdcnt := s.cmdcnt, rsp := s.rsp })) ∧
      u.faulted = false ∧ u.dActive = true := by
  rw [succeedAll_cons (exec_lzwDinit hf) (answer_err _ _ _)] at h
  obtain ⟨hloop, hactive, hlatched⟩ := decodeCodes_of_succeedAll ks rest 0 (s := s.decoderInit.answer 0 0) hf rfl h
  have hlatched : u.latched = s.latched := hlatched
  refine ⟨?_, (faulted_of_latched hlatched).trans hf, hactive⟩
  have hinit : s.decoderInit = (s.decoderInit.answer 0 0).withRecordOf s := rfl
  rw [exec_lzwDec hf, hcodes, hinit, decodeCodes_ignoresRecord, hloop, Nat.zero_add, ← decodeCodes_ignoresRecord,
    ← withRecordOf_of_latched hlatched]
  rfl

/-- Settles O47: the codes before are decoded alike, and the next one ends both, or there is none. -/
theorem wholeDecodeIsStepwiseDecode : Obligations.WholeDecodeIsStepwiseDecode := by
  refine fun s hf => ⟨fun u h => ?_, fun j k u v hk h hv => ?_⟩
  · obtain ⟨hexec, -, -⟩ := exec_lzwDec_of_succeedAll hf s.inputCodes [] (List.append_nil _).symm h
    rw [hexec]
    rfl
  · obtain ⟨hj, hkj⟩ := List.getElem?_eq_some_iff.1 hk
    have hcodes : s.inputCodes = s.inputCodes.take j ++ k :: s.inputCodes.drop (j + 1) := by
      rw [← hkj, ← List.drop_eq_getElem_cons hj, List.take_append_drop]
    have hlen : (s.inputCodes.take j).length = j := List.length_take_of_le hj.le
    obtain ⟨hexec, hfu, hau⟩ := exec_lzwDec_of_succeedAll hf _ _ hcodes h
    rw [hlen] at hexec
    obtain rfl := Host.Outcome.next.inj ((exec_lzwDcode k hfu hau).symm.trans hv)
    have hdecode := decodeCode_ignoresRecord k u { u with cmdcnt := s.cmdcnt, rsp := s.rsp }
    have hself : u.withRecordOf { u with cmdcnt := s.cmdcnt, rsp := s.rsp } =
      { u with cmdcnt := s.cmdcnt, rsp := s.rsp } := rfl
    rw [hself] at hdecode
    refine ⟨fun herr => ?_, fun herr => ?_⟩
    · obtain ⟨t, info, hbad⟩ := badCode_of_err herr
      obtain rfl := decodeCode_fault hbad
      rw [hexec, decodeCodes, hdecode, hbad]
      rfl
    · rw [hexec, decodeCodes, hdecode, capacity_of_err herr]
      rfl

end Sys2Proof.Machine
end

/-! PROOF. LZW.ENC byte by byte (`43_lzw_dict_accumulator.md` R231, R232): a code emitted or still to be emitted stands
for at least one byte taken, so no step is refused, and the steps leave, but for the record, what LZW.ENC leaves. -/

section
namespace Sys2Proof.Machine

/-- The codes emitted, and one more for a match that is still to be emitted. -/
def State.codesDue (s : State) : Nat := s.clen.toNat + s.ew.toList.length

theorem codesDue_of_match {s : State} {w : Code} (hw : s.ew = some w) : s.codesDue = s.clen.toNat + 1 := by
  rw [State.codesDue, hw]
  rfl

theorem toNat_succ_of_match {s : State} {w : Code} (hw : s.ew = some w) (hsmall : s.codesDue < 2 ^ 32) :
    (s.clen + 1).toNat = s.codesDue := by
  rw [codesDue_of_match hw] at hsmall ⊢
  exact BitVec.toNat_add_of_lt hsmall

/-- One byte brings at most one more code. -/
theorem codesDue_encodeByte (s : State) (c : Byte) (hsmall : s.codesDue < 2 ^ 32) :
    (s.encodeByte c).codesDue ≤ s.codesDue + 1 := by
  obtain ⟨k, hk⟩ | ⟨w, hw, hnew⟩ := extends_or_new s c
  · rw [encodeByte_of_extends hk]
    exact Nat.add_le_add_right (Nat.le_add_right _ _) 1
  · rw [encodeByte_of_new hw hnew]
    exact (congrArg (· + 1) (toNat_succ_of_match hw hsmall)).le

/-- After the flush CLEN is the number of codes due. -/
theorem clen_encoderFlush (s : State) (hsmall : s.codesDue < 2 ^ 32) : s.encoderFlush.clen.toNat = s.codesDue := by
  cases hw : s.ew with
  | none => simp [encoderFlush_of_none hw, State.codesDue, hw]
  | some e =>
    rw [encoderFlush_of_some hw]
    exact toNat_succ_of_match hw hsmall

theorem codesDue_foldl_encodeByte (input : List Byte) {s : State} (hsmall : s.codesDue + input.length < 2 ^ 32) :
    (input.foldl State.encodeByte s).codesDue ≤ s.codesDue + input.length := by
  induction input generalizing s with
  | nil => exact Nat.le_refl _
  | cons c input ih =>
    rw [List.length_cons] at hsmall ⊢
    have hc := codesDue_encodeByte s c (by omega)
    have hrest := ih (s := s.encodeByte c) (by omega)
    rw [List.foldl_cons]
    omega

/-! ### Each step succeeds -/

/-- With room for the codes due LZW.EBYTE succeeds. -/
theorem exec_lzwEbyte {s : State} (c : Byte) (hf : s.faulted = false) (ha : s.eActive = true)
    (hroom : s.codesDue ≤ s.cfg.cbufWords) :
    ∃ d, exec (.lzwEbyte c) s = .next ((s.encodeByte c).answer 0 d) := by
  obtain ⟨k, hk⟩ | ⟨w, hw, hnew⟩ := extends_or_new s c
  · exact ⟨_, runGated_of_success hf (lzwEbyteRule_of_extends ha hk)⟩
  · rw [codesDue_of_match hw] at hroom
    exact ⟨_, runGated_of_success hf (lzwEbyteRule_of_new ha hw hnew (by omega))⟩

/-- With room for the codes due LZW.EFLUSH succeeds. -/
theorem exec_lzwEflush {s : State} (hf : s.faulted = false) (ha : s.eActive = true)
    (hroom : s.codesDue ≤ s.cfg.cbufWords) : ∃ d, exec .lzwEflush s = .next (s.encoderFlush.answer 0 d) := by
  cases hw : s.ew with
  | none => exact ⟨_, runGated_of_success hf (lzwEflushRule_of_none ha hw)⟩
  | some e =>
    rw [codesDue_of_match hw] at hroom
    exact ⟨_, runGated_of_success hf (lzwEflushRule_of_some ha hw (by omega))⟩

/-- A byte leaves the record, the session and the capacities. -/
theorem encodeByte_keeps (s : State) (c : Byte) :
    (s.encodeByte c).latched = s.latched ∧ (s.encodeByte c).eActive = s.eActive ∧ (s.encodeByte c).cfg = s.cfg := by
  rw [encodeByte_frame]
  exact ⟨rfl, rfl, rfl⟩

/-- The steps over the input and the flush all succeed, and leave what the operations of LZW.ENC leave. -/
theorem succeedAll_ebytes_eflush (input : List Byte) {s : State} (hf : s.faulted = false) (ha : s.eActive = true)
    (hroom : s.codesDue + input.length ≤ s.cfg.cbufWords) (hsmall : s.codesDue + input.length < 2 ^ 32) :
    ∃ u : State, u.latched = s.latched ∧ succeedAll (input.map .lzwEbyte ++ [.lzwEflush]) s =
      some ((input.foldl State.encodeByte s).encoderFlush.withRecordOf u) := by
  induction input generalizing s with
  | nil =>
    obtain ⟨d, hd⟩ := exec_lzwEflush hf ha hroom
    refine ⟨s.encoderFlush.answer 0 d, ?_, succeedAll_cons hd (answer_err _ _ _)⟩
    rw [encoderFlush_frame]
    rfl
  | cons c input ih =>
    obtain ⟨hlatched, hactive, hcfg⟩ := encodeByte_keeps s c
    have hdue := codesDue_encodeByte s c (by omega)
    rw [List.length_cons] at hroom hsmall
    obtain ⟨d, hd⟩ := exec_lzwEbyte c hf ha (by omega)
    obtain ⟨u, hu, hrest⟩ := ih (s := (s.encodeByte c).answer 0 d)
      ((faulted_of_latched hlatched).trans hf) (hactive.trans ha)
      (show (s.encodeByte c).codesDue + input.length ≤ (s.encodeByte c).cfg.cbufWords by rw [hcfg]; omega)
      (show (s.encodeByte c).codesDue + input.length < 2 ^ 32 by omega)
    refine ⟨u, hu.trans hlatched, ?_⟩
    have hrecord : (s.encodeByte c).answer 0 d = (s.encodeByte c).withRecordOf ((s.encodeByte c).answer 0 d) := rfl
    rw [List.map_cons, List.cons_append, succeedAll_cons hd (answer_err _ _ _), hrest, hrecord,
      foldl_withRecordOf encodeByte_withRecordOf, encoderFlush_withRecordOf]
    rfl

/-- The state LZW.ENC makes (`43_lzw_dict_accumulator.md` R231). -/
def State.encoded (s : State) : State := (s.inputBytes.foldl State.encodeByte s.encoderInit).encoderFlush

theorem exec_lzwEnc {s : State} (hf : s.faulted = false) :
    exec .lzwEnc s = .next (s.encoded.answer 0 s.encoded.clen) :=
  runGated_unfaulted hf

theorem encoded_withRecordOf (s u : State) : (s.withRecordOf u).encoded = s.encoded.withRecordOf u := by
  have hin : (s.withRecordOf u).inputBytes = s.inputBytes := rfl
  rw [State.encoded, hin, encoderInit_withRecordOf, foldl_withRecordOf encodeByte_withRecordOf,
    encoderFlush_withRecordOf]
  rfl

/-- An encoding has no more codes than the input has bytes (`43_lzw_dict_accumulator.md` R232). -/
theorem clen_encoded_le (s : State) : s.encoded.clen.toNat ≤ s.ilen.toNat := by
  have hdue : s.encoderInit.codesDue = 0 := rfl
  have hfold := codesDue_foldl_encodeByte s.inputBytes (s := s.encoderInit)
    (by rw [hdue, inputBytes_length, Nat.zero_add]; exact s.ilen.isLt)
  rw [hdue, inputBytes_length, Nat.zero_add] at hfold
  rw [State.encoded, clen_encoderFlush _ (hfold.trans_lt s.ilen.isLt)]
  exact hfold

/-- Settles O44: no step lacks room, and the steps are the operations of LZW.ENC. -/
theorem wholeEncodeIsStepwiseEncode : Obligations.WholeEncodeIsStepwiseEncode := by
  intro s hbuf hf
  obtain ⟨⟨-, -, -, -, -, -, -, -, -, hcaps, -, -⟩, -, -, -, -, hilen, -, -, -⟩ := hbuf
  have hlen := inputBytes_length s
  have hin : (s.encoderInit.answer 0 0).codesDue = 0 := rfl
  obtain ⟨u, hu, hsteps⟩ := succeedAll_ebytes_eflush s.inputBytes (s := s.encoderInit.answer 0 0) hf rfl
    (by rw [hin, hlen, Nat.zero_add]; exact hilen.trans hcaps)
    (by rw [hin, hlen, Nat.zero_add]; exact s.ilen.isLt)
  have hstate : (s.inputBytes.foldl State.encodeByte (s.encoderInit.answer 0 0)).encoderFlush.withRecordOf u =
      s.encoded.withRecordOf u := by
    have hrecord : s.encoderInit.answer 0 0 = s.encoderInit.withRecordOf (s.encoderInit.answer 0 0) := rfl
    rw [hrecord, foldl_withRecordOf encodeByte_withRecordOf, encoderFlush_withRecordOf]
    rfl
  refine ⟨s.encoded.withRecordOf u, ?_, clen_encoded_le s, ?_⟩
  · rw [succeedAll_cons (exec_lzwEinit hf) (answer_err _ _ _), hsteps, hstate]
  · have hself : s.encoded.withRecordOf s = s.encoded := (encoded_withRecordOf s s).symm
    have hrecord : s.encoded = { s.encoded.withRecordOf u with cmdcnt := s.cmdcnt, rsp := s.rsp } := by
      rw [← withRecordOf_of_latched (s := s) (u := s.encoded.withRecordOf u) hu]
      exact hself.symm
    rw [exec_lzwEnc hf, hrecord]
    rfl

end Sys2Proof.Machine
end

/-! PROOF. A dictionary that grows keeps the strings of its codes, and when no pair is stored twice no two codes have one
string (`10_state.md` R53, `43_lzw_dict_accumulator.md` R222, R223). -/

section
namespace Sys2Proof.Machine

/-! ### Growing -/

theorem dictString_append {d : List DictEntry} (hd : DictOk d) (l : List DictEntry) (fuel : Nat) {k : Code}
    (hk : k.toNat < 256 + d.length) : dictString (d ++ l) fuel k = dictString d fuel k := by
  induction fuel generalizing k with
  | zero => rfl
  | succ fuel ih =>
    by_cases hbyte : k.toNat < 256
    · simp [dictString, hbyte]
    · have hj : k.toNat - 256 < d.length := by omega
      have hstored := List.getElem?_eq_getElem hj
      have hsmaller := prefixCode_lt hd hstored
      rw [dictString_stored (Nat.not_lt.1 hbyte) hstored,
        dictString_stored (Nat.not_lt.1 hbyte) ((List.getElem?_append_left hj).trans hstored), ih (by omega)]

/-- A new entry leaves the strings of the codes before it. -/
theorem codeString_append {d : List DictEntry} (hd : DictOk d) (e : DictEntry) {k : Code}
    (hk : k.toNat < 256 + d.length) : codeString (d ++ [e]) k = codeString d k := by
  rw [codeString, dictString_append hd [e] _ hk, List.length_append, List.length_singleton,
    dictString_fuel hd (Nat.le_succ _) hk, codeString]

theorem codeString_dictAdd (cap : Word32) {d : List DictEntry} (hd : DictOk d) (e : DictEntry) {k : Code}
    (hk : k.toNat < 256 + d.length) : codeString (dictAdd cap d e) k = codeString d k := by
  unfold dictAdd
  split
  · exact codeString_append hd e hk
  · rfl

theorem dictOk_append {d : List DictEntry} (hd : DictOk d) (hroom : 256 + d.length < 65536) {e : DictEntry}
    (he : e.prefixCode.toNat < 256 + d.length) : DictOk (d ++ [e]) := by
  refine ⟨by rw [List.length_append, List.length_singleton]; omega, fun p hp => ?_⟩
  rw [List.zipIdx_append, List.mem_append] at hp
  rcases hp with hp | hp
  · exact hd.2 p hp
  · obtain rfl : p = (e, 0 + d.length) := by simpa using hp
    simpa using he

/-- An entry under the cap keeps the dictionary well-formed. -/
theorem dictOk_dictAdd {cap : Word32} (hcap : cap.toNat ≤ 65536) {d : List DictEntry} (hd : DictOk d) {e : DictEntry}
    (he : e.prefixCode.toNat < 256 + d.length) : DictOk (dictAdd cap d e) := by
  unfold dictAdd
  split
  · exact dictOk_append hd (by omega) he
  · exact hd

theorem length_le_dictAdd (cap : Word32) (d : List DictEntry) (e : DictEntry) :
    d.length ≤ (dictAdd cap d e).length := by
  unfold dictAdd
  split
  · simp
  · exact Nat.le_refl _

theorem nodup_dictAdd (cap : Word32) {d : List DictEntry} (hd : d.Nodup) {e : DictEntry} (he : e ∉ d) :
    (dictAdd cap d e).Nodup := by
  unfold dictAdd
  split
  · exact List.nodup_append.2 ⟨hd, List.nodup_singleton e, fun a ha b hb => by
      obtain rfl := List.mem_singleton.1 hb
      exact fun hab => he (hab ▸ ha)⟩
  · exact hd

/-! ### Codes and strings -/

/-- A code that is not a byte is that of a stored entry. -/
theorem exists_entry {d : List DictEntry} (hd : DictOk d) {k : Code} (hk : k.toNat < 256 + d.length)
    (hstored : 256 ≤ k.toNat) :
    ∃ e, d[k.toNat - 256]? = some e ∧ codeString d k = codeString d e.prefixCode ++ [e.byte] ∧
      e.prefixCode.toNat < k.toNat := by
  have he := List.getElem?_eq_getElem (l := d) (i := k.toNat - 256) (by omega)
  have hcode : BitVec.ofNat 16 (256 + (k.toNat - 256)) = k := by
    rw [Nat.add_sub_cancel' hstored, BitVec.ofNat_toNat, BitVec.setWidth_eq]
  have hstring := codeString_entry hd he
  have hsmaller := prefixCode_lt hd he
  rw [hcode] at hstring
  exact ⟨_, he, hstring, by omega⟩

/-- A byte's code and a stored one stand for different strings. -/
theorem codeString_byte_ne_stored {d : List DictEntry} (hd : DictOk d) {j k : Code} (hj : j.toNat < 256)
    (hk : k.toNat < 256 + d.length) (hstored : 256 ≤ k.toNat) : codeString d j ≠ codeString d k := by
  obtain ⟨e, -, hstring, hsmaller⟩ := exists_entry hd hk hstored
  have hpos := List.length_pos_iff.2 (codeString_ne_nil hd (k := e.prefixCode) (by omega))
  intro h
  have hlen := congrArg List.length h
  rw [codeString_byte d hj, hstring, List.length_append, List.length_singleton, List.length_singleton] at hlen
  omega

/-- Where no pair is stored twice, equal strings come from equal pairs, down to a byte. -/
theorem codeString_injective {d : List DictEntry} (hd : DictOk d) (hnodup : d.Nodup) {j k : Code}
    (hj : j.toNat < 256 + d.length) (hk : k.toNat < 256 + d.length) (h : codeString d j = codeString d k) : j = k := by
  rcases Nat.lt_or_ge j.toNat 256 with hjb | hjs <;> rcases Nat.lt_or_ge k.toNat 256 with hkb | hks
  · rw [codeString_byte d hjb, codeString_byte d hkb] at h
    have hbyte := congrArg BitVec.toNat (List.singleton_inj.1 h)
    rw [BitVec.toNat_setWidth, BitVec.toNat_setWidth, Nat.mod_eq_of_lt hjb, Nat.mod_eq_of_lt hkb] at hbyte
    exact BitVec.eq_of_toNat_eq hbyte
  · exact absurd h (codeString_byte_ne_stored hd hjb hk hks)
  · exact absurd h.symm (codeString_byte_ne_stored hd hkb hj hjs)
  · obtain ⟨e, he, hej, hejlt⟩ := exists_entry hd hj hjs
    obtain ⟨f, hf, hfk, hfklt⟩ := exists_entry hd hk hks
    rw [hej, hfk] at h
    obtain ⟨hstring, hbyte⟩ := List.append_inj' h rfl
    have hprefix := codeString_injective hd hnodup (hejlt.trans hj) (hfklt.trans hk) hstring
    have hpair : e = f := by
      cases e
      cases f
      exact (DictEntry.mk.injEq ..).mpr ⟨hprefix, List.singleton_inj.1 hbyte⟩
    have hindex := (List.getElem?_inj (by omega) hnodup).1 (he.trans (hpair ▸ hf.symm))
    exact BitVec.eq_of_toNat_eq (by omega)
termination_by j.toNat

/-- R53 (a): distinct pairs give distinct strings. -/
theorem sequencesDistinct_of_nodup {d : List DictEntry} (hd : DictOk d) (hnodup : d.Nodup) : SequencesDistinct d :=
  fun _ _ hj hk hne h => hne (codeString_injective hd hnodup hj hk h)

/-! ### Lookups -/

/-- A code found for a pair stands for the string of the match and the byte. -/
theorem codeString_of_find {d : List DictEntry} (hd : DictOk d) {w k : Code} {c : Byte} (h : dictFind d w c = some k) :
    k.toNat < 256 + d.length ∧ codeString d k = codeString d w ++ [c] := by
  obtain ⟨i, hi, rfl⟩ := dictFind_some h
  rw [toNat_entryCode hd hi, codeString_entry hd hi]
  obtain ⟨hlt, -⟩ := List.getElem?_eq_some_iff.1 hi
  exact ⟨by omega, rfl⟩

/-- The code of a byte. -/
theorem toNat_byteCode (c : Byte) : (c.setWidth 16).toNat = c.toNat := by
  rw [BitVec.toNat_setWidth]
  have := c.isLt
  omega

theorem codeString_byteCode (d : List DictEntry) (c : Byte) : codeString d (c.setWidth 16) = [c] := by
  rw [codeString_byte d (by rw [toNat_byteCode]; exact c.isLt)]
  congr 1
  exact BitVec.eq_of_toNat_eq (by simp)

end Sys2Proof.Machine
end

/-! PROOF. The LZW encoder as a function of the dictionary and the match (`43_lzw_dict_accumulator.md` R226, R229), to
which the encoder's states, the source's algorithm and the decoder are each tied. -/

section
namespace Sys2Proof.Machine

/-- The codes emitted for the rest of the input from the match w on, and the dictionary at the end. -/
def encodeRun (cap : Word32) (d : List DictEntry) (w : Code) : List Byte → List Code × List DictEntry
  | [] => ([w], d)
  | c :: input =>
    match dictFind d w c with
    | some k => encodeRun cap d k input
    | none =>
      let r := encodeRun cap (dictAdd cap d ⟨w, c⟩) (c.setWidth 16) input
      (w :: r.1, r.2)

/-- The codes emitted for an input, and the dictionary at the end. -/
def encodeAll (cap : Word32) : List Byte → List Code × List DictEntry
  | [] => ([], [])
  | c :: input => encodeRun cap [] (c.setWidth 16) input

theorem encodeRun_of_found {cap : Word32} {d : List DictEntry} {w k : Code} {c : Byte} (input : List Byte)
    (h : dictFind d w c = some k) : encodeRun cap d w (c :: input) = encodeRun cap d k input := by
  rw [encodeRun, h]

theorem encodeRun_of_new {cap : Word32} {d : List DictEntry} {w : Code} {c : Byte} (input : List Byte)
    (h : dictFind d w c = none) :
    encodeRun cap d w (c :: input) =
      (w :: (encodeRun cap (dictAdd cap d ⟨w, c⟩) (c.setWidth 16) input).1,
        (encodeRun cap (dictAdd cap d ⟨w, c⟩) (c.setWidth 16) input).2) := by
  rw [encodeRun, h]

/-- What a run of the encoder keeps: a well-formed dictionary with no pair twice, and a match that is one of its
codes. -/
structure RunOk (cap : Word32) (d : List DictEntry) (w : Code) : Prop where
  cap_le : cap.toNat ≤ 65536
  dictOk : DictOk d
  nodup : d.Nodup
  match_lt : w.toNat < 256 + d.length

theorem RunOk.start {cap : Word32} (hcap : cap.toNat ≤ 65536) (c : Byte) : RunOk cap [] (c.setWidth 16) :=
  ⟨hcap, ⟨by decide, fun _ hp => absurd hp (List.not_mem_nil)⟩, List.nodup_nil, by
    rw [toNat_byteCode]; exact c.isLt⟩

theorem RunOk.found {cap : Word32} {d : List DictEntry} {w k : Code} {c : Byte} (h : RunOk cap d w)
    (hk : dictFind d w c = some k) : RunOk cap d k :=
  { h with match_lt := (codeString_of_find h.dictOk hk).1 }

theorem RunOk.added {cap : Word32} {d : List DictEntry} {w : Code} {c : Byte} (h : RunOk cap d w)
    (hnew : dictFind d w c = none) : RunOk cap (dictAdd cap d ⟨w, c⟩) (c.setWidth 16) where
  cap_le := h.cap_le
  dictOk := dictOk_dictAdd h.cap_le h.dictOk h.match_lt
  nodup := nodup_dictAdd cap h.nodup (dictFind_none.1 hnew)
  match_lt := by
    rw [toNat_byteCode]
    have := c.isLt
    omega

/-! ### The states of the encoder -/

theorem toNat_clen_emitCode (s : State) (e : Code) (hsmall : s.clen.toNat + 1 < 2 ^ 32) :
    (s.emitCode e).clen.toNat = s.clen.toNat + 1 :=
  BitVec.toNat_add_of_lt hsmall

/-- The valid codes after one is emitted. -/
theorem inputCodes_emitCode (s : State) (e : Code) (hsmall : s.clen.toNat + 1 < 2 ^ 32) :
    (s.emitCode e).inputCodes = s.inputCodes ++ [e] := by
  have hbefore : ∀ a ∈ List.range s.clen.toNat, (s.emitCode e).cbufRead a = s.cbufRead a := fun a ha => by
    rw [cbufRead_emitCode, if_neg (List.mem_range.1 ha).ne]
  have hat : (s.emitCode e).cbufRead s.clen.toNat = e := by rw [cbufRead_emitCode, if_pos rfl]
  rw [State.inputCodes, toNat_clen_emitCode s e hsmall, List.range_succ, List.map_append, List.map_singleton, hat,
    List.map_congr_left hbefore, ← State.inputCodes]

/-- Bytes and a flush from an open match emit the codes of the run, and leave its dictionary. -/
theorem encoderFlush_foldl_encodeByte (input : List Byte) {s : State} {w : Code} (hw : s.ew = some w)
    (hsmall : s.clen.toNat + 1 + input.length < 2 ^ 32) :
    (input.foldl State.encodeByte s).encoderFlush.inputCodes =
        s.inputCodes ++ (encodeRun s.lzwCap s.edict w input).1 ∧
      (input.foldl State.encodeByte s).encoderFlush.edict = (encodeRun s.lzwCap s.edict w input).2 := by
  induction input generalizing s w with
  | nil =>
    rw [List.foldl_nil, encoderFlush_of_some hw]
    exact ⟨inputCodes_emitCode s w hsmall, rfl⟩
  | cons c input ih =>
    rw [List.length_cons] at hsmall
    rw [List.foldl_cons]
    cases hk : dictFind s.edict w c with
    | some k =>
      rw [encodeByte_of_extends (show extendMatch s.edict s.ew c = some k by rw [hw]; exact hk),
        encodeRun_of_found input hk]
      exact ih (s := { s with ew := some k }) rfl (by dsimp only; omega)
    | none =>
      have hclen := toNat_clen_emitCode s w (by omega)
      have hcodes := inputCodes_emitCode s w (by omega)
      rw [encodeByte_of_new hw (dictFind_none.1 hk), encodeRun_of_new input hk]
      obtain ⟨hrest, hdict⟩ := ih
        (s := { s.emitCode w with edict := dictAdd s.lzwCap s.edict ⟨w, c⟩, ew := some (c.setWidth 16) }) rfl
        (by dsimp only; omega)
      refine ⟨hrest.trans ?_, hdict⟩
      rw [List.append_cons, ← hcodes]
      rfl

/-- LZW.ENC leaves the codes of the input in CBUF, and their dictionary. -/
theorem encoded_eq_encodeAll (s : State) :
    s.encoded.inputCodes = (encodeAll s.lzwCap s.inputBytes).1 ∧
      s.encoded.edict = (encodeAll s.lzwCap s.inputBytes).2 := by
  have hlen := inputBytes_length s
  unfold State.encoded
  generalize s.inputBytes = input at hlen ⊢
  cases input with
  | nil => exact ⟨rfl, rfl⟩
  | cons c input =>
    have hsmall := s.ilen.isLt
    rw [List.length_cons] at hlen
    rw [List.foldl_cons, encodeByte_of_extends (s := s.encoderInit) (c := c) rfl]
    exact encoderFlush_foldl_encodeByte input (s := { s.encoderInit with ew := some (c.setWidth 16) }) rfl
      (show 0 + 1 + input.length < 2 ^ 32 by omega)

/-! ### The algorithm over byte sequences (`43_lzw_dict_accumulator.md` R220) -/

/-- The string of an entry of the dictionary. -/
def entryString (d : List DictEntry) (e : DictEntry) : List Byte := codeString d e.prefixCode ++ [e.byte]

/-- The byte sequences of the stored entries, which are the dictionary of the algorithm. -/
def sequences (d : List DictEntry) : List (List Byte) := d.map (entryString d)

theorem prefixCode_lt_of_mem {d : List DictEntry} (hd : DictOk d) {e : DictEntry} (he : e ∈ d) :
    e.prefixCode.toNat < 256 + d.length := by
  obtain ⟨j, hj⟩ := List.mem_iff_getElem?.1 he
  have hsmaller := prefixCode_lt hd hj
  obtain ⟨hlt, -⟩ := List.getElem?_eq_some_iff.1 hj
  omega

theorem sequences_dictAdd (cap : Word32) {d : List DictEntry} (hd : DictOk d) {e : DictEntry}
    (he : e.prefixCode.toNat < 256 + d.length) :
    sequences (dictAdd cap d e) =
      if 256 + (sequences d).length < cap.toNat then sequences d ++ [entryString d e] else sequences d := by
  have hstring : ∀ f : DictEntry, f.prefixCode.toNat < 256 + d.length →
      entryString (d ++ [e]) f = entryString d f := fun f hf => by
    rw [entryString, codeString_append hd e hf, entryString]
  have hlen : (sequences d).length = d.length := List.length_map _
  rw [hlen, sequences, dictAdd]
  split
  · rw [sequences, List.map_append, List.map_singleton, hstring e he,
      List.map_congr_left fun f hf => hstring f (prefixCode_lt_of_mem hd hf)]
  · rfl

theorem findIdx?_congr_of_mem {α : Type} {p q : α → Bool} {l : List α} (h : ∀ x ∈ l, p x = q x) :
    l.findIdx? p = l.findIdx? q := by
  induction l with
  | nil => rfl
  | cons x l ih =>
    obtain ⟨hx, hl⟩ := List.forall_mem_cons.1 h
    rw [List.findIdx?_cons, List.findIdx?_cons, hx, ih hl]

/-- A sequence of two bytes or more is looked up in the dictionary. -/
theorem textbookCode_concat (dict : List (List Byte)) {x : List Byte} (hx : x ≠ []) (c : Byte) :
    textbookCode dict (x ++ [c]) = (dict.findIdx? fun y => y == x ++ [c]).map fun i => 256 + i := by
  match x with
  | [_] => rfl
  | _ :: _ :: _ => rfl

/-- Looking up the match with a byte after it finds the sequence exactly where the pair is stored. -/
theorem textbookCode_extend {cap : Word32} {d : List DictEntry} {w : Code} (h : RunOk cap d w) (c : Byte) :
    textbookCode (sequences d) (codeString d w ++ [c]) = (dictFind d w c).map BitVec.toNat := by
  have hsame : ∀ e ∈ d, ((fun y => y == codeString d w ++ [c]) ∘ entryString d) e =
      (e.prefixCode == w && e.byte == c) := fun e he => by
    rw [Function.comp_apply, Bool.eq_iff_iff, Bool.and_eq_true, beq_iff_eq, beq_iff_eq, beq_iff_eq]
    refine ⟨fun hstring => ?_, fun ⟨hw, hc⟩ => by rw [entryString, hw, hc]⟩
    obtain ⟨hprefix, hbyte⟩ := List.append_inj' hstring rfl
    exact ⟨codeString_injective h.dictOk h.nodup (prefixCode_lt_of_mem h.dictOk he) h.match_lt hprefix,
      List.singleton_inj.1 hbyte⟩
  rw [textbookCode_concat _ (codeString_ne_nil h.dictOk h.match_lt), sequences, List.findIdx?_map,
    findIdx?_congr_of_mem hsame, dictFind, Option.map_map]
  refine Option.map_congr fun i hi => ?_
  obtain ⟨hlt, -⟩ := List.findIdx?_eq_some_iff_getElem.1 hi
  exact (toNat_entryCode h.dictOk (List.getElem?_eq_getElem hlt)).symm

/-- The algorithm's code of the match is the match. -/
theorem textbookCode_match {cap : Word32} {d : List DictEntry} {w : Code} (h : RunOk cap d w) :
    textbookCode (sequences d) (codeString d w) = some w.toNat := by
  rcases Nat.lt_or_ge w.toNat 256 with hbyte | hstored
  · rw [codeString_byte d hbyte]
    exact congrArg some ((BitVec.toNat_setWidth ..).trans (Nat.mod_eq_of_lt hbyte))
  · obtain ⟨e, he, hstring, hsmaller⟩ := exists_entry h.dictOk h.match_lt hstored
    have hprefix : RunOk cap d e.prefixCode := { h with match_lt := hsmaller.trans h.match_lt }
    rw [hstring, textbookCode_extend hprefix e.byte, dictFind_of_stored h.nodup he, Nat.add_sub_cancel' hstored,
      BitVec.ofNat_toNat, BitVec.setWidth_eq]
    rfl

/-- The run emits what the algorithm emits with the sequences of the entries as its dictionary. -/
theorem encodeRun_textbook (input : List Byte) {cap : Word32} {d : List DictEntry} {w : Code} (h : RunOk cap d w) :
    (encodeRun cap d w input).1.map BitVec.toNat =
      textbookEncode cap.toNat (sequences d) (codeString d w) input := by
  induction input generalizing d w with
  | nil =>
    rw [textbookEncode, textbookCode_match h]
    rfl
  | cons c input ih =>
    rw [textbookEncode, textbookCode_extend h c]
    cases hk : dictFind d w c with
    | some k =>
      rw [encodeRun_of_found input hk, ih (h.found hk), (codeString_of_find h.dictOk hk).2]
      rfl
    | none =>
      rw [encodeRun_of_new input hk, List.map_cons, ih (h.added hk), sequences_dictAdd cap h.dictOk h.match_lt,
        codeString_byteCode, textbookCode_match h]
      rfl

theorem encodeAll_textbook (input : List Byte) {cap : Word32} (hcap : cap.toNat ≤ 65536) :
    (encodeAll cap input).1.map BitVec.toNat = textbookEncode cap.toNat [] [] input := by
  cases input with
  | nil => rfl
  | cons c input =>
    have hrun := encodeRun_textbook input (RunOk.start hcap c)
    rw [codeString_byteCode] at hrun
    exact hrun

/-- Settles O45: the encoder's states follow the run, and the run the algorithm. -/
theorem encoderEmitsTheTextbookCodes : Obligations.EncoderEmitsTheTextbookCodes := by
  intro s _ hf _ hcap
  obtain ⟨hcodes, -⟩ := encoded_eq_encodeAll s
  refine ⟨_, exec_lzwEnc hf, answer_err _ _ _, ?_⟩
  rw [← encodeAll_textbook s.inputBytes hcap, ← hcodes]
  rfl

end Sys2Proof.Machine
end

/-! PROOF. The LZW decoder undoes a run of the encoder (`43_lzw_dict_accumulator.md` R238, R241): it adds each entry one
code after the encoder does, when it knows the first byte of the next sequence. -/

section
namespace Sys2Proof.Machine

theorem lt_length_dictAdd {cap : Word32} {d : List DictEntry} {e : DictEntry} {n : Nat}
    (h : n < 256 + (dictAdd cap d e).length) :
    n < 256 + d.length ∨ n = 256 + d.length ∧ 256 + d.length < cap.toNat := by
  unfold dictAdd at h
  split at h
  · rw [List.length_append, List.length_singleton] at h
    omega
  · exact .inl h

/-- The decoder's dictionary becomes d with the next code, if its sequence begins with c: nothing is added with the
first code, and the previous code with c after it is added with any other. -/
inductive Awaits (s : State) (c : Byte) : List DictEntry → Prop
  | first (hprev : s.dprev = none) (hdict : s.ddict = []) : Awaits s c []
  | behind {p : Code} (hprev : s.dprev = some p) (hlt : p.toNat < 256 + s.ddict.length) (hdict : DictOk s.ddict) :
      Awaits s c (dictAdd s.lzwCap s.ddict ⟨p, c⟩)

/-- The sequence of the next code is found, and the dictionary becomes the one awaited. -/
theorem decodeCode_of_awaits {s : State} {c : Byte} {d : List DictEntry} {k : Code} {l : List Byte}
    (h : Awaits s c d) (hok : RunOk s.lzwCap d k) (hfirst : codeString d k = c :: l) :
    decodeCode k s = emitEntry s (codeString d k) d k := by
  cases h with
  | first hprev hdict =>
    have hk : k.toNat < 256 := hok.match_lt
    rw [decodeCode_first hprev hk, codeString_byte [] hk, hdict]
  | @behind p hprev hlt hdict =>
    have hentry : s.decoderEntry p k = some (codeString (dictAdd s.lzwCap s.ddict ⟨p, c⟩) k) := by
      obtain hknown | ⟨hnext, hgrows⟩ := lt_length_dictAdd hok.match_lt
      · rw [decoderEntry_of_known p hknown, codeString_dictAdd s.lzwCap hdict _ hknown]
      · have hcode : k = BitVec.ofNat 16 (256 + s.ddict.length) := eq_ofNat_of_toNat_eq hnext
        have hok := hok.dictOk
        rw [dictAdd_below _ hgrows] at hok hfirst ⊢
        have hstring := codeString_entry hok (List.getElem?_concat_length (l := s.ddict))
        rw [← hcode, codeString_append hdict _ hlt] at hstring
        rw [decoderEntry_of_next p hnext hgrows, hstring]
        obtain ⟨b, l', hprefix⟩ := List.exists_cons_of_ne_nil (codeString_ne_nil hdict hlt)
        rw [hstring, hprefix] at hfirst
        obtain rfl := (List.cons.inj hfirst).1
        rw [hprefix]
        rfl
    rw [decodeCode_entry hprev hentry, hfirst]
    rfl

/-- With room for its sequence the next code is decoded, and the others after it. -/
theorem decodeCodes_cons_of_awaits (ks : List Code) (j : Nat) {s : State} {c : Byte} {d : List DictEntry} {k : Code}
    {l : List Byte} (h : Awaits s c d) (hok : RunOk s.lzwCap d k) (hfirst : codeString d k = c :: l)
    (hroom : s.obuf.length + (codeString d k).length ≤ s.cfg.obufBytes) :
    decodeCodes (k :: ks) j s =
      decodeCodes ks (j + 1) { s with obuf := s.obuf ++ codeString d k, ddict := d, dprev := some k } := by
  rw [decodeCodes, decodeCode_of_awaits h hok hfirst, emitEntry_of_fits d k hroom]

/-- What LZW.DEC ends in with this output and this dictionary. -/
def Decodes (r : CmdResult) (s : State) (out : List Byte) (d : List DictEntry) : Prop :=
  ∃ p, r = .success { s with obuf := out, ddict := d, dprev := p, dActive := false } (word32 out.length)

/-- The codes of a run decode to the match and the rest of the input, with the run's dictionary. -/
theorem decodeCodes_encodeRun (input : List Byte) (j : Nat) {s : State} {c : Byte} {d : List DictEntry} {w : Code}
    {l : List Byte} (h : Awaits s c d) (hok : RunOk s.lzwCap d w) (hfirst : codeString d w = c :: l)
    (hroom : s.obuf.length + (codeString d w).length + input.length ≤ s.cfg.obufBytes) :
    Decodes (decodeCodes (encodeRun s.lzwCap d w input).1 j s) s (s.obuf ++ codeString d w ++ input)
      (encodeRun s.lzwCap d w input).2 := by
  induction input generalizing s c d w l j with
  | nil =>
    refine ⟨some w, ?_⟩
    rw [encodeRun, decodeCodes_cons_of_awaits [] j h hok hfirst hroom, List.append_nil]
    rfl
  | cons a input ih =>
    rw [List.length_cons] at hroom
    cases hk : dictFind d w a with
    | some k =>
      have hstring := (codeString_of_find hok.dictOk hk).2
      have hlen : (codeString d k).length = (codeString d w).length + 1 := by
        rw [hstring, List.length_append, List.length_singleton]
      have hout : s.obuf ++ codeString d w ++ a :: input = s.obuf ++ codeString d k ++ input := by
        rw [hstring, ← List.append_assoc, ← List.append_cons]
      rw [encodeRun_of_found input hk, hout]
      exact ih j h (hok.found hk) (hstring.trans (by rw [hfirst, List.cons_append])) (by omega)
    | none =>
      have hbyte := codeString_byteCode (dictAdd s.lzwCap d ⟨w, a⟩) a
      have hout : s.obuf ++ codeString d w ++ a :: input = s.obuf ++ codeString d w ++ [a] ++ input :=
        List.append_cons ..
      rw [encodeRun_of_new input hk, decodeCodes_cons_of_awaits _ j h hok hfirst (by omega), hout, ← hbyte]
      exact ih (j + 1) (s := { s with obuf := s.obuf ++ codeString d w, ddict := d, dprev := some w })
        (.behind rfl hok.match_lt hok.dictOk) (hok.added hk) hbyte
        (by rw [hbyte, List.length_append, List.length_singleton]; dsimp only; omega)

/-- The codes of an input decode to it, with the encoder's dictionary (`43_lzw_dict_accumulator.md` R238). -/
theorem decodeCodes_encodeAll (input : List Byte) {s : State} (hcap : s.lzwCap.toNat ≤ 65536)
    (hroom : input.length ≤ s.cfg.obufBytes) :
    Decodes (decodeCodes (encodeAll s.lzwCap input).1 0 s.decoderInit) s input (encodeAll s.lzwCap input).2 := by
  cases input with
  | nil => exact ⟨none, rfl⟩
  | cons c input =>
    have hbyte := codeString_byteCode [] c
    rw [List.length_cons] at hroom
    have hrun := decodeCodes_encodeRun input 0 (s := s.decoderInit) (.first rfl rfl) (RunOk.start hcap c) hbyte
      (by rw [hbyte, List.length_singleton]; show 0 + 1 + input.length ≤ s.cfg.obufBytes; omega)
    rw [hbyte] at hrun
    exact hrun

theorem encoded_faulted (s : State) : s.encoded.faulted = s.faulted :=
  (registers_of_withRecordOf (encoded_withRecordOf s s).symm).1

theorem encoded_eActive (s : State) : s.encoded.eActive = false := by
  rw [State.encoded, encoderFlush_frame]

/-- Settles O49: the buffer LZW.ENC leaves holds the codes of the input, which decode to it. -/
theorem lzwRoundTrips : Obligations.LzwRoundTrips := by
  intro s _ hf _ hcap hroom
  have henc := exec_lzwEnc hf
  obtain ⟨hcodes, hdict⟩ := encoded_eq_encodeAll s
  obtain ⟨hcfg, -, -, hlzwCap, -⟩ := hostWritten_eq_iff.1 (exec_hostWritten (by simp) (by simp) henc)
  generalize ht : s.encoded.answer 0 s.encoded.clen = t at henc hcfg hlzwCap
  have hft : t.faulted = false := by rw [← ht, answer_faulted, encoded_faulted, hf]
  have hcodest : t.inputCodes = (encodeAll t.lzwCap s.inputBytes).1 := by
    rw [hlzwCap, ← hcodes, ← ht]
    rfl
  have hdictt : t.edict = (encodeAll t.lzwCap s.inputBytes).2 := by rw [hlzwCap, ← hdict, ← ht, answer_edict]
  have hactive : t.eActive = false := by rw [← ht, answer_eActive, encoded_eActive]
  have hlen := inputBytes_length s
  obtain ⟨p, hdecodes⟩ := decodeCodes_encodeAll s.inputBytes (s := t) (hlzwCap ▸ hcap)
    (by rw [hlen, hcfg]; exact hroom)
  rw [← hcodest, ← hdictt] at hdecodes
  have hdec := exec_lzwDec hft
  rw [hdecodes, finish_success] at hdec
  exact ⟨_, (succeedAll_cons henc (by rw [← ht, answer_err])).trans (succeedAll_cons hdec (answer_err _ _ _)), hlen,
    rfl, rfl, hactive, rfl⟩

end Sys2Proof.Machine
end

/-! PROOF. FW.ASSIGN (`44_fixed_width.md` R251 to R254): the width is the binary logarithm rounded up, the entries are
the leaves' numbers, and of codes of one length with distinct values none begins another. -/

section
namespace Sys2Proof.Machine

/-! ### The code width -/

/-- The search answers the rounded logarithm, or the width it starts from when that is already enough. -/
theorem clog2From_eq {fuel b n : Nat} (h : Nat.clog 2 n ≤ b + fuel) : clog2From fuel b n = max b (Nat.clog 2 n) := by
  induction fuel generalizing b with
  | zero => exact (max_eq_left h).symm
  | succ fuel ih =>
    rw [clog2From]
    split_ifs with hb
    · exact (max_eq_left (Nat.clog_le_of_le_pow hb)).symm
    · have hlt : b < Nat.clog 2 n := Nat.lt_of_not_le fun hle => hb ((Nat.clog_le_iff_le_pow one_lt_two).1 hle)
      rw [ih (by omega)]
      omega

theorem clog2_eq_clog (n : Nat) : clog2 n = Nat.clog 2 n := by
  have hfuel : Nat.clog 2 n ≤ 0 + n := by
    rw [Nat.zero_add]
    exact Nat.clog_le_of_le_pow Nat.lt_two_pow_self.le
  rw [clog2, clog2From_eq hfuel, Nat.zero_max]

/-- The code width is the least positive width with a number for each of the n symbols
(`44_fixed_width.md` R251). -/
theorem codeWidth_le_iff {n b : Nat} : codeWidth n ≤ b ↔ 1 ≤ b ∧ n ≤ 2 ^ b := by
  rw [codeWidth, clog2_eq_clog, max_le_iff, Nat.clog_le_iff_le_pow one_lt_two]

theorem one_le_codeWidth (n : Nat) : 1 ≤ codeWidth n := (codeWidth_le_iff.1 le_rfl).1

theorem le_two_pow_codeWidth (n : Nat) : n ≤ 2 ^ codeWidth n := (codeWidth_le_iff.1 le_rfl).2

theorem codeWidth_nleaf_le {s : State} (h : LeavesOk s) : codeWidth s.nleaf ≤ 8 :=
  codeWidth_le_iff.2 ⟨by decide, nleaf_le h⟩

/-! ### The codebook -/

/-- The entry for a number that fits its width. -/
theorem entryFor_bitsOf {b i : Nat} (h : i < 2 ^ b) :
    entryFor (bitsOf b i) = ⟨true, BitVec.ofNat 9 b, BitVec.ofNat 256 i⟩ := by
  rw [entryFor, bitsOf_length, bitsVal_bitsOf, Nat.mod_eq_of_lt h]

theorem eq_of_bitsOf_eq {b i j : Nat} (hi : i < 2 ^ b) (hj : j < 2 ^ b) (h : bitsOf b i = bitsOf b j) : i = j := by
  rw [← Nat.mod_eq_of_lt hi, ← Nat.mod_eq_of_lt hj, ← bitsVal_bitsOf, ← bitsVal_bitsOf, h]

theorem codeOf_of_cleared {cb : Vector CbEntry 256} {sym : Byte} (h : cbEntry cb sym = CbEntry.cleared) :
    codeOf cb sym = none := by
  rw [codeOf, h]
  rfl

theorem leaf_lt_two_pow_codeWidth {s : State} {i : Nat} {n : Node} (hi : s.leaves[i]? = some n) :
    i < 2 ^ codeWidth s.nleaf :=
  (nodes_getElem?_of_leaf hi).1.trans_le (le_two_pow_codeWidth _)

section
variable {s : State} (h : LeavesOk s)
include h

/-- A leaf's symbol gets the leaf's number as its code (`44_fixed_width.md` R252). -/
theorem assignFixed_entry {i : Nat} {n : Node} (hi : s.leaves[i]? = some n) :
    cbEntry s.assignFixed.cb n.sym = entryFor (bitsOf (codeWidth s.nleaf) i) := by
  obtain ⟨-, -, hsyms, -⟩ := h
  rw [assignFixed_cb]
  exact cbEntry_assignCodes _ hsyms hi

theorem codeOf_assignFixed {i : Nat} {n : Node} (hi : s.leaves[i]? = some n) :
    codeOf s.assignFixed.cb n.sym = some (bitsOf (codeWidth s.nleaf) i) := by
  have hb := codeWidth_nleaf_le h
  exact codeOf_of_entryFor (by rw [bitsOf_length]; omega) (assignFixed_entry h hi)

/-- Only the symbols of leaves have codes. -/
theorem exists_leaf_of_codeOf_assignFixed {sym : Byte} {p : List Bool} (hp : codeOf s.assignFixed.cb sym = some p) :
    ∃ i n, s.leaves[i]? = some n ∧ n.sym = sym ∧ p = bitsOf (codeWidth s.nleaf) i := by
  by_cases hleaf : ∃ n ∈ s.leaves, n.sym = sym
  · obtain ⟨n, hmem, rfl⟩ := hleaf
    obtain ⟨i, hi⟩ := List.getElem?_of_mem hmem
    exact ⟨i, n, hi, rfl, Option.some.inj (hp.symm.trans (codeOf_assignFixed h hi))⟩
  · have hno : ∀ n ∈ s.leaves, n.sym ≠ sym := fun n hmem heq => hleaf ⟨n, hmem, heq⟩
    rw [assignFixed_cb, codeOf_of_cleared (cbEntry_assignCodes_of_no_leaf _ hno)] at hp
    exact absurd hp.symm (Option.some_ne_none p)

/-- Codes of one length with distinct values: none begins another (`44_fixed_width.md` R254). -/
theorem assignFixed_prefixFree : PrefixFree s.assignFixed.cb := by
  intro x y hne p hp q hq hprefix
  obtain ⟨i, n, hi, rfl, rfl⟩ := exists_leaf_of_codeOf_assignFixed h hp
  obtain ⟨j, m, hj, rfl, rfl⟩ := exists_leaf_of_codeOf_assignFixed h hq
  have hbits := hprefix.eq_of_length (by rw [bitsOf_length, bitsOf_length])
  obtain rfl := eq_of_bitsOf_eq (leaf_lt_two_pow_codeWidth hi) (leaf_lt_two_pow_codeWidth hj) hbits
  obtain rfl := Option.some.inj (hi.symm.trans hj)
  exact hne rfl

/-- TOTAL fits its register. -/
theorem assignFixed_total_toNat : s.assignFixed.total.toNat = leafTotal s.leaves := by
  have hfit := leafTotal_lt h
  rw [assignFixed_total, BitVec.toNat_ofNat, Nat.mod_eq_of_lt (by omega)]

/-- TOTBITS fits its register (`44_fixed_width.md` R253). -/
theorem assignFixed_totbits_toNat : s.assignFixed.totbits.toNat = leafTotal s.leaves * codeWidth s.nleaf := by
  have hle : leafTotal s.leaves * codeWidth s.nleaf ≤ 2 ^ 40 * 8 :=
    Nat.mul_le_mul (leafTotal_lt h).le (codeWidth_nleaf_le h)
  rw [assignFixed_totbits, BitVec.toNat_ofNat, Nat.mod_eq_of_lt (hle.trans_lt (by decide))]

end

/-! ### The command -/

theorem fwAssignRule_of_empty {s : State} (hload : s.phase = .load) (hn : s.nleaf = 0) :
    fwAssignRule s = .reject .empty := by
  rw [fwAssignRule, if_neg (not_not.2 hload), if_pos hn]

theorem fwAssignRule_of_leaves {s : State} (hload : s.phase = .load) (hn : s.nleaf ≠ 0) :
    fwAssignRule s = .success s.assignFixed (word32 (codeWidth s.nleaf)) := by
  rw [fwAssignRule, if_neg (not_not.2 hload), if_neg hn]

/-- Settles O50: the width is the least, and each leaf's entry is its number in that width. -/
theorem fixedAssignNumbersTheLeaves : Obligations.FixedAssignNumbersTheLeaves := by
  refine fun s hf => ⟨fun hload => runGated_of_reject hf (if_pos hload),
    fun hload hn => runGated_of_reject hf (fwAssignRule_of_empty hload hn), fun h hload hn => ?_⟩
  refine ⟨codeWidth s.nleaf, s.assignFixed.cb, s.assignFixed.total, s.assignFixed.totbits,
    ⟨one_le_codeWidth _, codeWidth_nleaf_le h, le_two_pow_codeWidth _, fun b hb hle => codeWidth_le_iff.2 ⟨hb, hle⟩⟩,
    runGated_of_success hf (fwAssignRule_of_leaves hload hn), fun i n hi => ⟨?entry, codeOf_assignFixed h hi⟩,
    fun sym hno => cbEntry_assignCodes_of_no_leaf _ hno, assignFixed_prefixFree h, assignFixed_total_toNat h, ?totbits⟩
  case entry => rw [assignFixed_entry h hi, entryFor_bitsOf (leaf_lt_two_pow_codeWidth hi)]
  case totbits => rw [assignFixed_totbits_toNat h, assignFixed_total_toNat h]

end Sys2Proof.Machine
end

/-! PROOF. FW.ENC (`44_fixed_width.md` R255, R257): the padding is the one number below 8 that makes
the 3-bit count, the data and the padding whole bytes. -/

section
namespace Sys2Proof.Machine

/-- The padding is the number below 8 that fills the last byte (`44_fixed_width.md` R257). -/
theorem padFor_eq_iff {d pad : Nat} : padFor d = pad ↔ pad < 8 ∧ (3 + d + pad) % 8 = 0 := by
  rw [padFor]
  omega

@[simp] theorem framed_length (data : List Bool) : (framed data).length = 3 + data.length + padFor data.length := by
  rw [framed, List.length_append, List.length_append, bitsOf_length, List.length_replicate]

theorem fwEncRule_of_overflow {s : State} (hsrc : s.cbSrc = .fixed)
    (h : s.cfg.bitcap < (framed (encodeBytes s.cb s.inputBytes)).length) : fwEncRule s = .reject .capacity := by
  rw [fwEncRule, if_neg (not_not.2 hsrc)]
  exact if_pos h

theorem fwEncRule_of_fits {s : State} (hsrc : s.cbSrc = .fixed)
    (h : (framed (encodeBytes s.cb s.inputBytes)).length ≤ s.cfg.bitcap) :
    fwEncRule s = .success { s with bits := framed (encodeBytes s.cb s.inputBytes) }
      (word32 (framed (encodeBytes s.cb s.inputBytes)).length) := by
  rw [fwEncRule, if_neg (not_not.2 hsrc)]
  exact if_neg h.not_gt

/-- Settles O51: the padding the statement describes is the one FW.ENC computes. -/
theorem fixedEncodeFramesTheCodes : Obligations.FixedEncodeFramesTheCodes := by
  refine fun s hf => ⟨fun hsrc => runGated_of_reject hf (if_pos hsrc), ?_⟩
  rintro data pad hsrc hdata hpad hbytes
  obtain rfl : encodeBytes s.cb s.inputBytes = data := (encodeBytes_eq_flatten _ _).trans hdata.symm
  obtain rfl := padFor_eq_iff.2 ⟨hpad, hbytes⟩
  rw [← framed_length]
  exact ⟨fun hfull => runGated_of_reject hf (fwEncRule_of_overflow hsrc hfull),
    fun hfits => runGated_of_success hf (fwEncRule_of_fits hsrc hfits)⟩

end Sys2Proof.Machine
end

/-! PROOF. FW.DEC (`44_fixed_width.md` R258): the chunk loop passes over the groups that number a leaf, and ends at
the last group, at one that numbers none, or with OBUF full. -/

section
namespace Sys2Proof.Machine

/-- The number that the b bits from bit `pos` on stand for. -/
def groupFrom (bits : List Bool) (b pos : Nat) : Nat := bitsVal ((bits.drop pos).take b)

/-- The groups from bit `pos` on number leaves with the symbols `syms`, one after another. -/
def GroupsDecode (leaves : List Node) (bits : List Bool) (b pos : Nat) (syms : List Byte) : Prop :=
  ∀ j, j < syms.length → (leaves[groupFrom bits b (pos + j * b)]?).map Node.sym = syms[j]?

section
variable {leaves : List Node} {bits : List Bool} {b cap : Nat}

theorem groupsDecode_cons_iff {pos : Nat} {c : Byte} {syms : List Byte} :
    GroupsDecode leaves bits b pos (c :: syms) ↔
      (leaves[groupFrom bits b pos]?).map Node.sym = some c ∧ GroupsDecode leaves bits b (pos + b) syms := by
  have hnext : ∀ j, pos + (j + 1) * b = pos + b + j * b := fun j => by rw [Nat.succ_mul]; omega
  simp only [GroupsDecode, List.length_cons, Nat.forall_lt_succ_left', Nat.zero_mul, Nat.add_zero,
    List.getElem?_cons_zero, List.getElem?_cons_succ, hnext]

/-- Groups that all number leaves decode to the symbols of those. -/
theorem exists_groupsDecode (n : Nat) {pos : Nat} (h : ∀ j, j < n → groupFrom bits b (pos + j * b) < leaves.length) :
    ∃ syms, syms.length = n ∧ GroupsDecode leaves bits b pos syms := by
  refine ⟨List.ofFn fun j : Fin n => (leaves[groupFrom bits b (pos + j * b)]'(h j j.isLt)).sym, List.length_ofFn,
    fun j hj => ?_⟩
  rw [List.length_ofFn] at hj
  simp [h j hj, hj]

/-! ### The loop -/

theorem fwDecLoop_of_leaf (count : Nat) {pos : Nat} {out : List Byte} {c : Byte}
    (h : (leaves[groupFrom bits b pos]?).map Node.sym = some c) (hroom : out.length ≠ cap) :
    fwDecLoop leaves bits b cap (count + 1) pos out = fwDecLoop leaves bits b cap count (pos + b) (out ++ [c]) := by
  obtain ⟨n, hn, rfl⟩ := Option.map_eq_some_iff.1 h
  rw [groupFrom] at hn
  rw [fwDecLoop, hn]
  exact if_neg hroom

theorem fwDecLoop_of_no_leaf (count : Nat) {pos : Nat} (out : List Byte)
    (h : leaves.length ≤ groupFrom bits b pos) :
    fwDecLoop leaves bits b cap (count + 1) pos out = .noCode out pos := by
  have hnone : leaves[bitsVal ((bits.drop pos).take b)]? = none := List.getElem?_eq_none h
  rw [fwDecLoop, hnone]

theorem fwDecLoop_of_full (count : Nat) {pos : Nat} {out : List Byte} (h : groupFrom bits b pos < leaves.length)
    (hfull : out.length = cap) : fwDecLoop leaves bits b cap (count + 1) pos out = .full := by
  have hsome : leaves[bitsVal ((bits.drop pos).take b)]? = some _ := List.getElem?_eq_getElem h
  rw [fwDecLoop, hsome]
  exact if_pos hfull

/-- Groups that number leaves are passed, their symbols put out. -/
theorem fwDecLoop_of_groupsDecode (count : Nat) {pos : Nat} {syms out : List Byte}
    (h : GroupsDecode leaves bits b pos syms) (hroom : out.length + syms.length ≤ cap) :
    fwDecLoop leaves bits b cap (syms.length + count) pos out =
      fwDecLoop leaves bits b cap count (pos + syms.length * b) (out ++ syms) := by
  induction syms generalizing pos out with
  | nil => simp
  | cons c syms ih =>
    obtain ⟨hc, hsyms⟩ := groupsDecode_cons_iff.1 h
    rw [List.length_cons] at hroom
    rw [List.length_cons, Nat.add_right_comm, fwDecLoop_of_leaf _ hc (by omega),
      ih hsyms (by rw [List.length_append, List.length_singleton]; omega), List.append_assoc, List.singleton_append,
      Nat.succ_mul, Nat.add_assoc pos, Nat.add_comm b]

end

/-! ### The command -/

section
variable {s : State} (hsrc : s.cbSrc = .fixed)
include hsrc

theorem fwDecRule_of_unframed
    (h : s.bits.length < 3 ∨ s.bits.length < 3 + bitsVal (s.bits.take 3) ∨
      (s.bits.length - 3 - bitsVal (s.bits.take 3)) % s.fwWidth.toNat ≠ 0) : fwDecRule s = badFormat s := by
  rw [fwDecRule]
  split_ifs with hne hprefix hpad hgroups
  · exact absurd hsrc hne
  · rfl
  · rfl
  · rfl
  · exact absurd h (not_or.2 ⟨hprefix, not_or.2 ⟨hpad, hgroups⟩⟩)

theorem fwDecRule_of_framed (h3 : 3 ≤ s.bits.length) (hpad : 3 + bitsVal (s.bits.take 3) ≤ s.bits.length)
    (hgroups : (s.bits.length - 3 - bitsVal (s.bits.take 3)) % s.fwWidth.toNat = 0) :
    fwDecRule s = storeDecoded s (fwDecLoop s.leaves s.bits s.fwWidth.toNat s.cfg.obufBytes
      ((s.bits.length - 3 - bitsVal (s.bits.take 3)) / s.fwWidth.toNat) 3 []) :=
  (if_neg (not_not.2 hsrc)).trans <| (if_neg h3.not_gt).trans <| (if_neg hpad.not_gt).trans <|
    if_neg (not_not.2 hgroups)

end

/-- Settles O52: the loop passes the groups that number leaves, and the next one, if any, says how it ends. -/
theorem fixedDecodeReadsTheGroups : Obligations.FixedDecodeReadsTheGroups := by
  refine fun s hf => ⟨fun hsrc => runGated_of_reject hf (if_pos hsrc), ?_⟩
  rintro b pad n group hsrc rfl - rfl hn hgroup
  obtain rfl : group = fun j => groupFrom s.bits s.fwWidth.toNat (3 + j * s.fwWidth.toNat) := funext hgroup
  have hrun : exec .fwDec s = .next (finish s (fwDecRule s)) := runGated_unfaulted hf
  refine ⟨fun hbad => by rw [hrun, fwDecRule_of_unframed hsrc hbad]; rfl, fun hpad hgroups h3 => ?_⟩
  rw [hrun, fwDecRule_of_framed hsrc h3 hpad hgroups, ← hn]
  refine ⟨fun out hlen hroom hsyms => ?done, fun out hlen hroom hsyms hbad => ?noCode, fun hfull hleaves => ?full⟩
  case done =>
    subst hlen
    have hloop := fwDecLoop_of_groupsDecode 0 (out := []) hsyms (by simpa using hroom)
    rw [Nat.add_zero] at hloop
    rw [hloop]
    rfl
  case noCode =>
    obtain ⟨rest, rfl⟩ := Nat.exists_eq_add_of_lt hlen
    rw [Nat.add_assoc, fwDecLoop_of_groupsDecode (rest + 1) hsyms (by simpa using hroom), fwDecLoop_of_no_leaf _ _ hbad]
    rfl
  case full =>
    obtain ⟨syms, hlen, hsyms⟩ := exists_groupsDecode s.cfg.obufBytes fun j hj => hleaves j hj.le
    obtain ⟨rest, rfl⟩ := Nat.exists_eq_add_of_lt hfull
    have hleaf := hleaves _ le_rfl
    rw [← hlen] at hleaf ⊢
    rw [Nat.add_assoc, fwDecLoop_of_groupsDecode (rest + 1) hsyms (by simp), fwDecLoop_of_full _ hleaf (by simp)]
    rfl

end Sys2Proof.Machine
end

/-! PROOF. Which codes a command can end in (`60_exceptions.md` R270, R272): each command's own rule refuses and
faults only with the codes of its row. -/

section
namespace Sys2Proof.Machine

/-- The code of a result, if it has one, is listed. -/
def CmdResult.EndsIn (rejects : List RejectCode) (faults : List FaultCode) : CmdResult → Prop
  | .success _ _ => True
  | .reject code => code ∈ rejects
  | .fault _ code _ => code ∈ faults

section
variable {rejects : List RejectCode} {faults : List FaultCode}

theorem endsIn_success (t : State) (d : Word32) : (CmdResult.success t d).EndsIn rejects faults := trivial

theorem endsIn_reject {code : RejectCode} (h : code ∈ rejects := by decide) :
    (CmdResult.reject code).EndsIn rejects faults := h

theorem endsIn_fault {t : State} {code : FaultCode} {info : Word32} (h : code ∈ faults := by decide) :
    (CmdResult.fault t code info).EndsIn rejects faults := h

theorem endsIn_ite {p : Prop} [Decidable p] {a b : CmdResult} (ha : a.EndsIn rejects faults)
    (hb : b.EndsIn rejects faults) : (if p then a else b).EndsIn rejects faults := by
  split
  · exact ha
  · exact hb

/-! ### The shared operations -/

theorem appendBits_endsIn (add : List Bool) (s : State) (h : .capacity ∈ rejects) :
    (appendBits add s).EndsIn rejects faults :=
  endsIn_ite (endsIn_reject h) (endsIn_success _ _)

theorem storeDecoded_endsIn (s : State) (e : DecodeEnd) (hfull : .capacity ∈ rejects) (hcode : .noCode ∈ faults) :
    (storeDecoded s e).EndsIn rejects faults := by
  cases e with
  | done out => exact endsIn_success _ _
  | noCode out start => exact endsIn_fault hcode
  | full => exact endsIn_reject hfull

theorem decodeCode_endsIn (k : Code) (s : State) (hfull : .capacity ∈ rejects) (hbad : .lzwBadCode ∈ faults) :
    (decodeCode k s).EndsIn rejects faults := by
  obtain h | h | ⟨entry, d, h⟩ := decodeCode_cases k s <;> rw [h]
  · exact endsIn_fault hbad
  · exact endsIn_reject hfull
  · exact endsIn_success _ _

end

/-! ### WR -/

/-- The code of a refused write is listed. -/
def WriteEndsIn (rejects : List RejectCode) : Except RejectCode State → Prop
  | .ok _ => True
  | .error code => code ∈ rejects

section
variable {rejects : List RejectCode}

theorem writeEndsIn_ok (t : State) : WriteEndsIn rejects (.ok t) := trivial

theorem writeEndsIn_error {code : RejectCode} (h : code ∈ rejects := by decide) :
    WriteEndsIn rejects (.error code) := h

theorem writeEndsIn_ite {p : Prop} [Decidable p] {a b : Except RejectCode State} (ha : WriteEndsIn rejects a)
    (hb : WriteEndsIn rejects b) : WriteEndsIn rejects (if p then a else b) := by
  split
  · exact ha
  · exact hb

end

theorem csrWrite_endsIn (s : State) (r : Csr) (v : Word32) :
    WriteEndsIn [.addr, .state, .badArg] (csrWrite s r v) := by
  cases r
  case ilen | clen => exact writeEndsIn_ite (writeEndsIn_ok _) writeEndsIn_error
  case lzwCap => exact writeEndsIn_ite writeEndsIn_error (writeEndsIn_ite writeEndsIn_error (writeEndsIn_ok _))
  all_goals exact writeEndsIn_error (code := .addr)

theorem cbWindowWrite_endsIn (s : State) (sym : Byte) (f : Nat) (v : Word32) :
    WriteEndsIn [.addr, .state, .badArg] (cbWindowWrite s sym f v) := by
  unfold cbWindowWrite
  split
  · exact writeEndsIn_error
  · exact writeEndsIn_ok _

theorem memWrite_endsIn (s : State) (sp : Space) (addr : BitVec 20) (v : Word32) :
    WriteEndsIn [.addr, .state, .badArg] (memWrite s sp addr v) := by
  cases sp
  case csr =>
    simp only [memWrite]
    split
    · exact writeEndsIn_error
    · exact csrWrite_endsIn s _ v
  case cb =>
    simp only [memWrite]
    split
    · exact writeEndsIn_error
    · exact cbWindowWrite_endsIn s _ _ v
  case ibuf | cbuf =>
    exact writeEndsIn_ite (writeEndsIn_ite (writeEndsIn_ok _) writeEndsIn_error) writeEndsIn_error
  all_goals exact writeEndsIn_error (code := .addr)

/-! ### Each command's rule -/

/-- The rule ends only in outcomes that the command's row lists (`60_exceptions.md` R272). -/
def EndsAsListed (i : Instr) (rule : State → CmdResult) : Prop :=
  ∀ s, (rule s).EndsIn (ownRejects i) (ownFaults i)

theorem rdRule_endsAsListed (space : BitVec 4) (addr : BitVec 20) :
    EndsAsListed (.rd space addr) (rdRule space addr) := by
  intro s
  obtain h | ⟨v, h⟩ := rdRule_cases space addr s <;> rw [h]
  · exact endsIn_reject (List.mem_singleton_self _)
  · exact endsIn_success _ _

theorem wrRule_endsAsListed (space : BitVec 4) (addr : BitVec 20) (data : Word32) :
    EndsAsListed (.wr space addr data) (wrRule space addr data) := by
  intro s
  unfold wrRule
  cases Space.ofNum space with
  | none => exact endsIn_reject (rejects := [.addr, .state, .badArg])
  | some sp =>
    have hwrite := memWrite_endsIn s sp addr data
    dsimp only
    cases hw : memWrite s sp addr data with
    | error code => exact endsIn_reject (by rwa [hw] at hwrite)
    | ok t => exact endsIn_success _ _

theorem bssAppendRule_endsIn (n : BitVec 6) (bits : Word32) (s : State) :
    (bssAppendRule n bits s).EndsIn [.badArg, .capacity] [] :=
  endsIn_ite endsIn_reject (appendBits_endsIn _ s (by decide))

theorem bssAppsymRule_endsIn (sym : Byte) (s : State) : (bssAppsymRule sym s).EndsIn [.capacity] [] := by
  unfold bssAppsymRule
  split
  · exact endsIn_success _ _
  · exact appendBits_endsIn _ s (by decide)

theorem bssPackRule_endsIn (hdr : Bool) (s : State) : (bssPackRule hdr s).EndsIn [.capacity] [] :=
  endsIn_ite endsIn_reject (endsIn_success _ _)

theorem unpackBits_endsIn (n off : Nat) (s : State) : (unpackBits n off s).EndsIn [.badLen, .capacity] [] :=
  endsIn_ite endsIn_reject (endsIn_ite endsIn_reject (endsIn_success _ _))

theorem bssUnpackRule_endsIn (hdr : Bool) (nbits : Word32) (s : State) :
    (bssUnpackRule hdr nbits s).EndsIn [.badLen, .capacity] [] :=
  endsIn_ite (endsIn_ite endsIn_reject (unpackBits_endsIn _ _ s)) (unpackBits_endsIn _ _ s)

theorem htbLoadRule_endsIn (sym : Byte) (weight : Word32) (s : State) :
    (htbLoadRule sym weight s).EndsIn [.state, .dupSym] [] :=
  endsIn_ite endsIn_reject (endsIn_ite endsIn_reject (endsIn_success _ _))

theorem htbStepRule_endsIn (s : State) : (htbStepRule s).EndsIn [.state] [] :=
  endsIn_ite endsIn_reject (endsIn_ite endsIn_reject (endsIn_success _ _))

theorem htbAssignRule_endsIn (s : State) : (htbAssignRule s).EndsIn [.state, .empty] [] :=
  endsIn_ite endsIn_reject (endsIn_ite endsIn_reject (endsIn_ite endsIn_reject (endsIn_success _ _)))

theorem htbBuildRule_endsIn (s : State) : (htbBuildRule s).EndsIn [.state, .empty] [] :=
  endsIn_ite endsIn_reject (endsIn_ite endsIn_reject (endsIn_success _ _))

theorem lzwEbyteRule_endsIn (c : Byte) (s : State) : (lzwEbyteRule c s).EndsIn [.state, .capacity] [] := by
  refine endsIn_ite endsIn_reject ?_
  cases s.mustEmit c with
  | none => exact endsIn_success _ _
  | some e => exact endsIn_ite endsIn_reject (endsIn_success _ _)

theorem lzwEflushRule_endsIn (s : State) : (lzwEflushRule s).EndsIn [.state, .capacity] [] := by
  refine endsIn_ite endsIn_reject ?_
  split
  · exact endsIn_success _ _
  · exact endsIn_ite endsIn_reject (endsIn_success _ _)

theorem lzwDcodeRule_endsIn (k : Code) (s : State) :
    (lzwDcodeRule k s).EndsIn [.state, .capacity] [.lzwBadCode] :=
  endsIn_ite endsIn_reject (decodeCode_endsIn k s (by decide) (by decide))

/-- The loop of LZW.DEC ends in what one of its codes ends in, or succeeds. -/
theorem decodeCodes_endsIn (ks : List Code) (j : Nat) (s : State) :
    (decodeCodes ks j s).EndsIn [.capacity] [.lzwBadCode] := by
  induction ks generalizing j s with
  | nil => exact endsIn_success _ _
  | cons k ks ih =>
    have hk := decodeCode_endsIn k s (List.mem_singleton_self _) (List.mem_singleton_self _)
    unfold decodeCodes
    cases hr : decodeCode k s with
    | success t d => exact ih (j + 1) t
    | reject code => rwa [hr] at hk
    | fault t code info => rwa [hr] at hk

theorem fwAssignRule_endsIn (s : State) : (fwAssignRule s).EndsIn [.state, .empty] [] :=
  endsIn_ite endsIn_reject (endsIn_ite endsIn_reject (endsIn_success _ _))

theorem fwEncRule_endsIn (s : State) : (fwEncRule s).EndsIn [.state, .capacity] [] :=
  endsIn_ite endsIn_reject (endsIn_ite endsIn_reject (endsIn_success _ _))

theorem badFormat_endsIn (s : State) : (badFormat s).EndsIn [.state, .capacity] [.format, .noCode] := endsIn_fault

theorem fwDecRule_endsIn (s : State) : (fwDecRule s).EndsIn [.state, .capacity] [.format, .noCode] :=
  endsIn_ite endsIn_reject <| endsIn_ite (badFormat_endsIn s) <| endsIn_ite (badFormat_endsIn s) <|
    endsIn_ite (badFormat_endsIn s) (storeDecoded_endsIn s _ (by decide) (by decide))

/-! ### Every command -/

/-- A command behind the fault gate is a rule that ignores the record and ends as the command's row lists. -/
theorem exec_of_gated_endsAsListed {i : Instr} (h : gated i = true) :
    ∃ rule, IgnoresRecord rule ∧ EndsAsListed i rule ∧ ∀ s, exec i s = runGated rule s :=
  match i, h with
  | .wr space addr data, _ =>
    ⟨_, wrRule_ignoresRecord space addr data, wrRule_endsAsListed space addr data, fun _ => rfl⟩
  | .bssClr, _ => ⟨_, bssClr_ignoresRecord, fun _ => endsIn_success _ _, fun _ => rfl⟩
  | .bssAppend n bits, _ => ⟨_, bssAppendRule_ignoresRecord n bits, bssAppendRule_endsIn n bits, fun _ => rfl⟩
  | .bssAppsym sym, _ => ⟨_, bssAppsymRule_ignoresRecord sym, bssAppsymRule_endsIn sym, fun _ => rfl⟩
  | .bssEnc, _ =>
    ⟨_, bssEnc_ignoresRecord, fun s => appendBits_endsIn _ s (List.mem_singleton_self _), fun _ => rfl⟩
  | .bssDec, _ =>
    ⟨_, bssDec_ignoresRecord,
      fun s => storeDecoded_endsIn s _ (List.mem_singleton_self _) (List.mem_singleton_self _), fun _ => rfl⟩
  | .bssPack hdr, _ => ⟨_, bssPackRule_ignoresRecord hdr, bssPackRule_endsIn hdr, fun _ => rfl⟩
  | .bssUnpack hdr nbits, _ =>
    ⟨_, bssUnpackRule_ignoresRecord hdr nbits, bssUnpackRule_endsIn hdr nbits, fun _ => rfl⟩
  | .htbClr, _ => ⟨_, htbClr_ignoresRecord, fun _ => endsIn_success _ _, fun _ => rfl⟩
  | .htbLoad sym weight, _ => ⟨_, htbLoadRule_ignoresRecord sym weight, htbLoadRule_endsIn sym weight, fun _ => rfl⟩
  | .htbCount order, _ => ⟨_, htbCountRule_ignoresRecord order, fun _ => endsIn_success _ _, fun _ => rfl⟩
  | .htbStep, _ => ⟨_, htbStepRule_ignoresRecord, htbStepRule_endsIn, fun _ => rfl⟩
  | .htbAssign, _ => ⟨_, htbAssignRule_ignoresRecord, htbAssignRule_endsIn, fun _ => rfl⟩
  | .htbBuild, _ => ⟨_, htbBuildRule_ignoresRecord, htbBuildRule_endsIn, fun _ => rfl⟩
  | .lzwEinit, _ => ⟨_, lzwEinit_ignoresRecord, fun _ => endsIn_success _ _, fun _ => rfl⟩
  | .lzwEbyte c, _ => ⟨_, lzwEbyteRule_ignoresRecord c, lzwEbyteRule_endsIn c, fun _ => rfl⟩
  | .lzwEflush, _ => ⟨_, lzwEflushRule_ignoresRecord, lzwEflushRule_endsIn, fun _ => rfl⟩
  | .lzwEnc, _ => ⟨_, lzwEncRule_ignoresRecord, fun _ => endsIn_success _ _, fun _ => rfl⟩
  | .lzwDinit, _ => ⟨_, lzwDinit_ignoresRecord, fun _ => endsIn_success _ _, fun _ => rfl⟩
  | .lzwDcode k, _ => ⟨_, lzwDcodeRule_ignoresRecord k, lzwDcodeRule_endsIn k, fun _ => rfl⟩
  | .lzwDec, _ =>
    ⟨_, lzwDec_ignoresRecord, fun s => decodeCodes_endsIn s.inputCodes 0 s.decoderInit, fun _ => rfl⟩
  | .fwAssign, _ => ⟨_, fwAssignRule_ignoresRecord, fwAssignRule_endsIn, fun _ => rfl⟩
  | .fwEnc, _ => ⟨_, fwEncRule_ignoresRecord, fwEncRule_endsIn, fun _ => rfl⟩
  | .fwDec, _ => ⟨_, fwDecRule_ignoresRecord, fwDecRule_endsIn, fun _ => rfl⟩

/-- A command that the fault gate does not stop ends in the recording of a result that leaves the record alone and
has one of the command's own codes, if any. -/
theorem exec_of_open_gate {i : Instr} (hi : i ≠ .reset) {s : State} (hopen : gated i = true → s.faulted = false) :
    ∃ r : CmdResult, exec i s = .next (finish s r) ∧ r.LeavesRecord s ∧ r.EndsIn (ownRejects i) (ownFaults i) := by
  cases hg : gated i with
  | true =>
    obtain ⟨rule, hrecord, hlisted, hexec⟩ := exec_of_gated_endsAsListed hg
    have hf := hopen hg
    exact ⟨rule s, (hexec s).trans (runGated_unfaulted hf), hrecord.leavesRecord hf, hlisted s⟩
  | false =>
    match i, hg with
    | .nop, _ => exact ⟨.success s 0, rfl, .success 0 rfl, endsIn_success s 0⟩
    | .reset, _ => exact absurd rfl hi
    | .rd space addr, _ =>
      refine ⟨rdRule space addr s, rfl, ?_, rdRule_endsAsListed space addr s⟩
      obtain h | ⟨v, h⟩ := rdRule_cases space addr s <;> rw [h]
      · exact .reject _
      · exact .success v rfl

/-- A command that the fault gate stops is refused with E_FAULTED. -/
theorem exec_of_shut_gate {i : Instr} {s : State} (hg : gated i = true) (hf : s.faulted = true) :
    exec i s = .next (s.refuse .faulted) := by
  obtain ⟨rule, -, hexec⟩ := exec_of_gated hg
  rw [hexec, runGated_faulted hf, State.refuse]

/-- Settles O9: a command is stopped by the fault gate, or ends in the recording of its rule's result. -/
theorem everyCommandSucceedsRefusesOrFaults : Obligations.EveryCommandSucceedsRefusesOrFaults := by
  intro i s hi
  by_cases hopen : gated i = true → s.faulted = false
  · obtain ⟨r, hexec, hrecord, hcodes⟩ := exec_of_open_gate hi hopen
    cases hrecord with
    | success data ht =>
      obtain ⟨hfault, hcode, hinfo, hcnt⟩ := registers_of_withRecordOf ht
      exact .inl ⟨_, data, hexec, hcnt, hfault, hcode, hinfo, hopen⟩
    | reject code =>
      obtain ⟨hlow, hhigh⟩ := rejectCode_byte_range code
      exact .inr (.inl ⟨code, hexec, hlow, hhigh, .inl ⟨hcodes, hopen⟩⟩)
    | fault code info hf ht =>
      obtain ⟨hlow, hhigh⟩ := faultCode_byte_range code
      obtain ⟨-, -, -, hcnt⟩ := registers_of_withRecordOf ht
      exact .inr (.inr ⟨_, code, info, hexec, hlow, hhigh, hcodes, hf, hcnt⟩)
  · obtain ⟨hg, hfault⟩ := Classical.not_imp.1 hopen
    have hf := Bool.eq_true_of_not_eq_false hfault
    obtain ⟨hlow, hhigh⟩ := rejectCode_byte_range .faulted
    exact .inr (.inl ⟨.faulted, exec_of_shut_gate hg hf, hlow, hhigh, .inr ⟨rfl, hg, hf⟩⟩)

end Sys2Proof.Machine
end

/-! PROOF. The decoder and the encoder (`30_encoding.md` R100 to R109). A command's OP names its format; the format
says which bits of the word are zero and where the operands stand, and the encoder puts them there. -/

section
namespace Sys2Proof.Machine

open Sys2Proof.Laws.OpField (opcode opField_wordOf)

/-! ### The fields of a word -/

theorem bField_wordOf (op : BitVec 8) (a : BitVec 24) (b : Word32) : bField (wordOf op a b) = b :=
  BitVec.extractLsb'_append_eq_right

theorem aField_wordOf (op : BitVec 8) (a : BitVec 24) (b : Word32) : aField (wordOf op a b) = a := by
  refine BitVec.eq_of_getLsbD_eq fun j hj => ?_
  rw [aField, wordOf, BitVec.getLsbD_extractLsb', decide_eq_true hj, Bool.true_and, BitVec.getLsbD_append,
    if_neg (by omega), Nat.add_sub_cancel_left, BitVec.getLsbD_append, if_pos hj]

/-- A word is its three fields (`30_encoding.md` R101). -/
theorem wordOf_fields (w : Word64) : wordOf (opField w) (aField w) (bField w) = w := by
  refine BitVec.eq_of_getLsbD_eq fun j hj => ?_
  simp only [wordOf, opField, aField, bField, BitVec.getLsbD_append, BitVec.getLsbD_extractLsb']
  grind

theorem wordOf_inj {op op' : BitVec 8} {a a' : BitVec 24} {b b' : Word32} :
    wordOf op a b = wordOf op' a' b' ↔ op = op' ∧ a = a' ∧ b = b' := by
  refine ⟨fun h => ⟨?_, ?_, ?_⟩, fun ⟨hop, ha, hb⟩ => by rw [hop, ha, hb]⟩
  · rw [← opField_wordOf op a b, h, opField_wordOf]
  · rw [← aField_wordOf op a b, h, aField_wordOf]
  · rw [← bField_wordOf op a b, h, bField_wordOf]

/-! ### The formats (`30_encoding.md` R104) -/

/-- Where the bits of A end that the command's operands take; the bits above are zero. -/
def aBits : Instr → Nat
  | .rd _ _ | .wr _ _ _ => 24
  | .lzwDcode _ => 16
  | .bssAppsym _ | .htbLoad _ _ | .lzwEbyte _ => 8
  | .bssAppend _ _ => 6
  | .bssPack _ | .bssUnpack _ _ | .htbCount _ => 1
  | _ => 0

/-- The command has an operand in B. -/
def takesB : Instr → Bool
  | .wr _ _ _ | .bssAppend _ _ | .bssUnpack _ _ | .htbLoad _ _ => true
  | _ => false

/-- Bits 23 to n of A are zero. -/
def highZero (n : Nat) (w : Word64) : Bool := (aField w).extractLsb' n (24 - n) == 0

/-- The bits that the command's row asks to be zero are zero, and BSS.UNPACK's constraint holds. -/
def mustBeZero (i : Instr) (w : Word64) : Bool :=
  highZero (aBits i) w && (takesB i || bField w == 0) &&
    (opcode i != 0x16 || !(aField w).getLsbD 0 || bField w == 0)

/-- The command with its operands read from the word. -/
def readOperands (w : Word64) : Instr → Instr
  | .rd _ _ => .rd ((aField w).extractLsb' 20 4) ((aField w).extractLsb' 0 20)
  | .wr _ _ _ => .wr ((aField w).extractLsb' 20 4) ((aField w).extractLsb' 0 20) (bField w)
  | .bssAppend _ _ => .bssAppend ((aField w).extractLsb' 0 6) (bField w)
  | .bssAppsym _ => .bssAppsym ((aField w).extractLsb' 0 8)
  | .bssPack _ => .bssPack ((aField w).getLsbD 0)
  | .bssUnpack _ _ => .bssUnpack ((aField w).getLsbD 0) (bField w)
  | .htbLoad _ _ => .htbLoad ((aField w).extractLsb' 0 8) (bField w)
  | .htbCount _ => .htbCount ((aField w).getLsbD 0)
  | .lzwEbyte _ => .lzwEbyte ((aField w).extractLsb' 0 8)
  | .lzwDcode _ => .lzwDcode ((aField w).extractLsb' 0 16)
  | i => i

theorem highZero_zero (w : Word64) : highZero 0 w = (aField w == 0) := by
  rw [highZero, BitVec.extractLsb'_eq_self]

theorem highZero_all (w : Word64) : highZero 24 w = true :=
  beq_iff_eq.2 (Subsingleton.elim (α := BitVec 0) _ _)

/-- A word with a command's OP is that command with the word's operands, or malformed. -/
theorem decode_of_opcode {i : Instr} {w : Word64} (h : opField w = opcode i) :
    decode w = whenZero (mustBeZero i w) (readOperands w i) := by
  unfold decode
  rw [h]
  cases i
  case rd | wr => simp [mustBeZero, aBits, highZero_all, takesB, opcode, readOperands, decodeMR, decodeMW]
  case bssPack | htbCount | bssUnpack =>
    simp [mustBeZero, aBits, highZero, takesB, opcode, readOperands, decodeF, decodeFB]
    rfl
  case bssAppend | htbLoad | bssAppsym | lzwEbyte | lzwDcode =>
    simp [mustBeZero, aBits, highZero, takesB, opcode, readOperands, decodeNB, decodeSW, decodeS, decodeK]
    rfl
  all_goals simp [mustBeZero, aBits, highZero_zero, takesB, opcode, readOperands, decodeZ]

theorem whenZero_eq_ok {ok : Bool} {i j : Instr} (h : whenZero ok i = .ok j) : ok = true ∧ i = j := by
  cases ok with
  | false => exact nomatch h
  | true => exact ⟨rfl, Except.ok.inj h⟩

/-! ### The operands in their places -/

/-- A field whose bits from n on are zero is its n low bits. -/
theorem zero_append_low {m n : Nat} {x : BitVec (m + n)} (h : x.extractLsb' n m = 0) :
    (0 : BitVec m) ++ x.extractLsb' 0 n = x := by
  rw [← h]
  refine BitVec.eq_of_getLsbD_eq fun j hj => ?_
  simp only [BitVec.getLsbD_append, BitVec.getLsbD_extractLsb']
  grind

theorem flagBit_getLsbD (x : BitVec 24) : flagBit (x.getLsbD 0) = x.extractLsb' 0 1 := by
  refine BitVec.eq_of_getLsbD_eq fun j hj => ?_
  obtain rfl : j = 0 := by omega
  simp [flagBit]

theorem append_fields {m n : Nat} (x : BitVec (m + n)) : x.extractLsb' n m ++ x.extractLsb' 0 n = x := by
  refine BitVec.eq_of_getLsbD_eq fun j hj => ?_
  simp only [BitVec.getLsbD_append, BitVec.getLsbD_extractLsb']
  grind

theorem extractLsb'_high_append {m n : Nat} (x : BitVec m) (y : BitVec n) : (x ++ y).extractLsb' n m = x :=
  BitVec.extractLsb'_append_eq_left

theorem extractLsb'_low_append {m n : Nat} (x : BitVec m) (y : BitVec n) : (x ++ y).extractLsb' 0 n = y :=
  BitVec.extractLsb'_append_eq_right

theorem zero_append_flagBit (f : Bool) : ((0 : BitVec 23) ++ flagBit f).getLsbD 0 = f := by
  cases f <;> rfl

theorem mustBeZero_iff {i : Instr} {w : Word64} :
    mustBeZero i w = true ↔
      (aField w).extractLsb' (aBits i) (24 - aBits i) = 0 ∧ (takesB i = true ∨ bField w = 0) ∧
        (opcode i = 0x16 → (aField w).getLsbD 0 = true → bField w = 0) := by
  simp only [mustBeZero, highZero, Bool.and_eq_true, Bool.or_eq_true, beq_iff_eq, bne_iff_ne, Bool.not_eq_true',
    and_assoc, or_assoc]
  refine and_congr_right' (and_congr_right' ?_)
  rw [← Bool.not_eq_true, imp_iff_not_or, imp_iff_not_or]

/-! ### Encoding -/

theorem aField_encode_high (i : Instr) : (aField (encode i)).extractLsb' (aBits i) (24 - aBits i) = 0 := by
  cases i <;> simp only [encode, aField_wordOf]
  case rd | wr => exact Subsingleton.elim (α := BitVec 0) _ _
  case bssAppend | htbLoad | bssAppsym | lzwEbyte | lzwDcode | bssPack | bssUnpack | htbCount =>
    exact extractLsb'_high_append _ _
  all_goals rfl

theorem bField_encode (i : Instr) : takesB i = true ∨ bField (encode i) = 0 := by
  cases i <;> simp [encode, bField_wordOf, takesB]

theorem readOperands_encode (i : Instr) : readOperands (encode i) i = i := by
  cases i <;> simp only [readOperands, encode, aField_wordOf, bField_wordOf]
  case rd => exact congrArg₂ Instr.rd (extractLsb'_high_append _ _) (extractLsb'_low_append _ _)
  case wr data =>
    exact congrArg₂ (Instr.wr · · data) (extractLsb'_high_append _ _) (extractLsb'_low_append _ _)
  case bssAppend bits => exact congrArg (Instr.bssAppend · bits) (extractLsb'_low_append _ _)
  case htbLoad weight => exact congrArg (Instr.htbLoad · weight) (extractLsb'_low_append _ _)
  case bssAppsym => exact congrArg Instr.bssAppsym (extractLsb'_low_append _ _)
  case lzwEbyte => exact congrArg Instr.lzwEbyte (extractLsb'_low_append _ _)
  case lzwDcode => exact congrArg Instr.lzwDcode (extractLsb'_low_append _ _)
  case bssPack hdr => exact congrArg Instr.bssPack (zero_append_flagBit hdr)
  case htbCount order => exact congrArg Instr.htbCount (zero_append_flagBit order)
  case bssUnpack hdr nbits => exact congrArg (Instr.bssUnpack · nbits) (zero_append_flagBit hdr)

/-- The constraint of BSS.UNPACK's row is the condition on its operands (`30_encoding.md` R107). -/
theorem unpack_constraint_encode {i : Instr} (h : i.wellFormed = true) (hop : opcode i = 0x16)
    (hflag : (aField (encode i)).getLsbD 0 = true) : bField (encode i) = 0 := by
  cases i
  case bssUnpack hdr nbits =>
    rw [encode, aField_wordOf] at hflag
    obtain rfl : hdr = true := (zero_append_flagBit hdr).symm.trans hflag
    rw [encode, bField_wordOf]
    exact beq_iff_eq.1 h
  all_goals simp [opcode] at hop

theorem opField_encode (i : Instr) : opField (encode i) = opcode i := by
  cases i <;> exact opField_wordOf _ _ _

/-- Settles O1: the encoder leaves zero what the command's format asks to be zero, and the operands are read where it
puts them. -/
theorem encodeThenDecode : Obligations.EncodeThenDecode := by
  intro i h
  rw [decode_of_opcode (opField_encode i), readOperands_encode,
    mustBeZero_iff.2 ⟨aField_encode_high i, bField_encode i, unpack_constraint_encode h⟩]
  rfl

/-! ### Decoding -/

theorem opcode_readOperands (w : Word64) (i : Instr) : opcode (readOperands w i) = opcode i := by
  cases i <;> rfl

theorem aField_encode_readOperands {i : Instr} {w : Word64}
    (h : (aField w).extractLsb' (aBits i) (24 - aBits i) = 0) : aField (encode (readOperands w i)) = aField w := by
  cases i <;> simp only [readOperands, encode, aField_wordOf]
  case rd | wr => exact append_fields _
  case bssAppend | htbLoad | bssAppsym | lzwEbyte | lzwDcode => exact zero_append_low h
  case bssPack | bssUnpack | htbCount =>
    rw [flagBit_getLsbD]
    exact zero_append_low h
  all_goals exact (BitVec.extractLsb'_eq_self.symm.trans h).symm

theorem bField_encode_readOperands {i : Instr} {w : Word64} (h : takesB i = true ∨ bField w = 0) :
    bField (encode (readOperands w i)) = bField w := by
  cases i <;> simp only [readOperands, encode, bField_wordOf]
  case rd | bssAppsym | lzwEbyte | lzwDcode | bssPack | htbCount => exact (h.resolve_left Bool.false_ne_true).symm
  all_goals exact (h.resolve_left Bool.false_ne_true).symm

/-- Reading the operands of a word of the command's format drops no bit. -/
theorem encode_readOperands {i : Instr} {w : Word64} (hop : opField w = opcode i) (h : mustBeZero i w = true) :
    encode (readOperands w i) = w := by
  obtain ⟨ha, hb, -⟩ := mustBeZero_iff.1 h
  rw [← wordOf_fields (encode _), opField_encode, opcode_readOperands, aField_encode_readOperands ha,
    bField_encode_readOperands hb, ← hop, wordOf_fields]

theorem wellFormed_readOperands {i : Instr} {w : Word64} (h : mustBeZero i w = true) :
    (readOperands w i).wellFormed = true := by
  obtain ⟨-, -, hflag⟩ := mustBeZero_iff.1 h
  cases i
  case bssUnpack =>
    simp only [readOperands]
    cases hf : (aField w).getLsbD 0 with
    | false => rfl
    | true => exact beq_iff_eq.2 (hflag rfl hf)
  all_goals rfl

/-! ### The opcode table (`30_encoding.md` R107) -/

/-- The low n bits of A are operand bits, which a row's mask leaves out. -/
def aMask (n : Nat) : BitVec 24 := (BitVec.allOnes 24) <<< n

/-- The command's row: the mask has the bits that are not its operands', the match its OP. -/
def rowOf (i : Instr) : OpcodeRow :=
  ⟨opcode i, wordOf 0xFF (aMask (aBits i)) (if takesB i then 0 else 0xFFFFFFFF), wordOf (opcode i) 0 0⟩

/-- One command of each row. -/
def oneOfEachRow : List Instr :=
  [.nop, .reset, .rd 0 0, .wr 0 0 0, .bssClr, .bssAppend 0 0, .bssAppsym 0, .bssEnc, .bssDec, .bssPack false,
   .bssUnpack false 0, .htbClr, .htbLoad 0 0, .htbCount false, .htbStep, .htbAssign, .htbBuild, .lzwEinit, .lzwEbyte 0,
   .lzwEflush, .lzwEnc, .lzwDinit, .lzwDcode 0, .lzwDec, .fwAssign, .fwEnc, .fwDec]

theorem opcodeTable_eq : opcodeTable = oneOfEachRow.map rowOf := by decide

theorem wordOf_and (op op' : BitVec 8) (a a' : BitVec 24) (b b' : Word32) :
    wordOf op a b &&& wordOf op' a' b' = wordOf (op &&& op') (a &&& a') (b &&& b') :=
  BitVec.and_append.trans (congrArg (· ++ (b &&& b')) BitVec.and_append)

/-- Masked to the bits from n on, a field is zero exactly when these are. -/
theorem and_aMask_eq_zero_iff {x : BitVec 24} {n : Nat} :
    x &&& aMask n = 0 ↔ x.extractLsb' n (24 - n) = 0 := by
  have hbit : ∀ j, (x &&& aMask n).getLsbD (n + j) = (x.extractLsb' n (24 - n)).getLsbD j := fun j => by
    simp only [aMask, BitVec.getLsbD_and, BitVec.getLsbD_shiftLeft, BitVec.getLsbD_allOnes,
      BitVec.getLsbD_extractLsb']
    grind
  refine ⟨fun h => BitVec.eq_of_getLsbD_eq fun j _ => ?_, fun h => BitVec.eq_of_getLsbD_eq fun j hj => ?_⟩
  · simp [← hbit, h]
  · rcases Nat.lt_or_ge j n with hlow | hhigh
    · simp [aMask, hlow]
    · obtain ⟨j, rfl⟩ := Nat.exists_eq_add_of_le hhigh
      simp [hbit, h]

/-- A masked word is compared field by field. -/
theorem and_mask_eq_iff {w : Word64} {op : BitVec 8} {m : BitVec 24} {n : Word32} :
    w &&& wordOf 0xFF m n = wordOf op 0 0 ↔ opField w = op ∧ aField w &&& m = 0 ∧ bField w &&& n = 0 := by
  have hop : opField w &&& 0xFF = opField w := BitVec.and_allOnes
  conv_lhs => rw [← wordOf_fields w, wordOf_and, wordOf_inj, hop]

theorem bField_and_eq_zero_iff {i : Instr} {w : Word64} :
    bField w &&& (if takesB i then 0 else 0xFFFFFFFF) = 0 ↔ (takesB i = true ∨ bField w = 0) := by
  have hones : bField w &&& 0xFFFFFFFF = bField w := BitVec.and_allOnes
  cases takesB i
  · simp only [Bool.false_eq_true, if_false, false_or, hones]
  · simp

/-- A row accepts a word exactly when the word has the row's OP and zeros where the row's command asks for them. -/
theorem rowOf_accepts_iff {i : Instr} {w : Word64} :
    (rowOf i).Accepts w ↔ opField w = opcode i ∧ mustBeZero i w = true := by
  have hflag : w.getLsbD 32 = (aField w).getLsbD 0 := by
    simp [aField]
  rw [mustBeZero_iff, ← and_aMask_eq_zero_iff, ← bField_and_eq_zero_iff, ← hflag, ← and_assoc (a := _ &&& _ = _),
    ← and_assoc, ← and_mask_eq_iff]
  exact Iff.rfl

/-- A word with no row's OP is no command (`30_encoding.md` R108). -/
theorem decode_of_no_row {w : Word64} (h : ∀ r ∈ opcodeTable, opField w ≠ r.op) : decode w = .error .illegalOp := by
  have hnum : ∀ n ∈ opcodeTable.map fun r => r.op.toNat, (opField w).toNat ≠ n := by
    intro n hn heq
    obtain ⟨r, hr, rfl⟩ := List.mem_map.1 hn
    exact h r hr (BitVec.eq_of_toNat_eq heq)
  unfold decode
  split
  case h_28 => rfl
  all_goals exact absurd ‹_› (hnum _ (by decide))

theorem exists_row {r : OpcodeRow} (h : r ∈ opcodeTable) : ∃ i, r = rowOf i := by
  rw [opcodeTable_eq] at h
  obtain ⟨i, -, hi⟩ := List.mem_map.1 h
  exact ⟨i, hi.symm⟩

/-- A word that decodes has the OP of a command and zeros where that command asks for them. -/
theorem decode_eq_ok {w : Word64} {i : Instr} (h : decode w = .ok i) :
    ∃ j, opField w = opcode j ∧ mustBeZero j w = true ∧ i = readOperands w j := by
  by_cases hrow : ∀ r ∈ opcodeTable, opField w ≠ r.op
  · exact nomatch (decode_of_no_row hrow).symm.trans h
  · push Not at hrow
    obtain ⟨r, hr, hop⟩ := hrow
    obtain ⟨j, rfl⟩ := exists_row hr
    obtain ⟨hzero, rfl⟩ := whenZero_eq_ok ((decode_of_opcode hop).symm.trans h)
    exact ⟨j, hop, hzero, rfl⟩

/-- Settles O2: the fields a word's command leaves out are zero, and the encoder puts the others back. -/
theorem decodeThenEncode : Obligations.DecodeThenEncode := by
  intro w i h
  obtain ⟨j, hop, hzero, rfl⟩ := decode_eq_ok h
  exact ⟨wellFormed_readOperands hzero, encode_readOperands hop hzero⟩

/-- Settles O3: the row with a word's OP accepts it exactly when the zeros of its format are there. -/
theorem wordsRunOrAreRefused : Obligations.WordsRunOrAreRefused := by
  intro s w rest hin
  refine ⟨fun hno => step_malformed hin (decode_of_no_row hno), fun r hr hop hbad => ?_, fun r hr hacc => ?_⟩
  · obtain ⟨i, rfl⟩ := exists_row hr
    have hzero : mustBeZero i w = false :=
      Bool.eq_false_of_not_eq_true fun hzero => hbad (rowOf_accepts_iff.2 ⟨hop, hzero⟩)
    refine step_malformed (e := .badField) hin ?_
    rw [decode_of_opcode hop, hzero]
    rfl
  · obtain ⟨i, rfl⟩ := exists_row hr
    obtain ⟨hop, hzero⟩ := rowOf_accepts_iff.1 hacc
    have hdecode : decode w = .ok (readOperands w i) := by
      rw [decode_of_opcode hop, hzero]
      rfl
    exact ⟨_, hdecode, wellFormed_readOperands hzero, step_decoded hin hdecode⟩

/-- Settles O4: each word's OP names its row, whose zeros and operands are read off. -/
theorem specWordsDecode : Obligations.SpecWordsDecode := by
  unfold Obligations.SpecWordsDecode
  decide

/-! ### One step of a host input (`70_reset_and_hazards.md` R311) -/

/-- Settles O5: taking the word transfers the earlier response. -/
theorem stepRunsDecodedCommand : Obligations.StepRunsDecodedCommand :=
  fun _ _ _ _ hin hdecode => step_decoded hin hdecode

/-- Settles O6: neither an idle step nor a transfer runs anything. -/
theorem idleHoldsStateAndResponsesTransfer : Obligations.IdleHoldsStateAndResponsesTransfer :=
  ⟨fun _ => step_idle, fun _ _ => step_takeResponse⟩

end Sys2Proof.Machine
end

/-! PROOF. What every command and every step keeps (`40_system_commands.md` R130, `70_reset_and_hazards.md` R311 to
R313): a command is its own rule behind the fault gate, so that what the rules keep, and the record does not touch,
every step keeps. -/

section
namespace Sys2Proof.Machine

/-! ### Each command's own rule -/

/-- The rule of a command (`40_system_commands.md` R130 step 4); RESET has none. -/
def ownRule : Instr → State → CmdResult
  | .nop | .reset => fun s => .success s 0
  | .rd space addr => rdRule space addr
  | .wr space addr data => wrRule space addr data
  | .bssClr => fun s => .success { s with bits := [] } 0
  | .bssAppend n bits => bssAppendRule n bits
  | .bssAppsym sym => bssAppsymRule sym
  | .bssEnc => fun s => appendBits (encodeBytes s.cb s.inputBytes) s
  | .bssDec => fun s => storeDecoded s (bssDecLoop s.cb s.cfg.obufBytes s.bits 0 [] 0 [])
  | .bssPack hdr => bssPackRule hdr
  | .bssUnpack hdr nbits => bssUnpackRule hdr nbits
  | .htbClr => fun s => .success s.clearTable 0
  | .htbLoad sym weight => htbLoadRule sym weight
  | .htbCount order => htbCountRule order
  | .htbStep => htbStepRule
  | .htbAssign => htbAssignRule
  | .htbBuild => htbBuildRule
  | .lzwEinit => fun s => .success s.encoderInit 0
  | .lzwEbyte c => lzwEbyteRule c
  | .lzwEflush => lzwEflushRule
  | .lzwEnc => lzwEncRule
  | .lzwDinit => fun s => .success s.decoderInit 0
  | .lzwDcode k => lzwDcodeRule k
  | .lzwDec => fun s => decodeCodes s.inputCodes 0 s.decoderInit
  | .fwAssign => fwAssignRule
  | .fwEnc => fwEncRule
  | .fwDec => fwDecRule

theorem exec_ownRule {i : Instr} (hi : i ≠ .reset) (s : State) :
    exec i s = .next (finish s (if gated i && s.faulted then .reject .faulted else ownRule i s)) := by
  cases i
  case reset => exact absurd rfl hi
  all_goals rfl

/-! ### What the recording of an outcome keeps -/

theorem refuse_eq_withRecordOf (s : State) (code : RejectCode) : s.refuse code = s.withRecordOf (s.refuse code) := by
  rw [State.refuse, State.recordReject]
  split <;> rfl

/-- A property of the rest of the state that is the record's business in no way. -/
def OfStorage (P : State → Prop) : Prop := ∀ s u : State, P s → P (s.withRecordOf u)

section
variable {P : State → Prop} (hP : OfStorage P)
include hP

theorem OfStorage.finish {s : State} {r : CmdResult} (hs : P s) (hr : r.Leaves P) : P (finish s r) := by
  cases r with
  | success t data => exact hP t (t.answer 0 data) hr
  | reject code =>
    have hrefuse : P (s.refuse code) := by
      rw [refuse_eq_withRecordOf]
      exact hP s _ hs
    exact hrefuse
  | fault t code info => exact hP t (t.fail code info) hr

/-- What a command's own rule leaves the command leaves. -/
theorem OfStorage.exec {i : Instr} (hi : i ≠ .reset) {s t : State} (hs : P s) (hr : (ownRule i s).Leaves P)
    (h : exec i s = .next t) : P t := by
  obtain rfl := Host.Outcome.next.inj ((exec_ownRule hi s).symm.trans h)
  exact hP.finish hs (leaves_ite trivial hr)

/-- What the reset and a command's own rule leave the command leaves. -/
theorem OfStorage.exec_or_reset {i : Instr} {s t : State} (hs : P s) (hreset : P s.afterReset)
    (hrule : i ≠ .reset → (ownRule i s).Leaves P) (h : Machine.exec i s = .next t) : P t := by
  by_cases hi : i = .reset
  · subst hi
    obtain rfl := Host.Outcome.next.inj h
    exact hP _ { s.afterReset with rsp := some (responseWord 0 0) } hreset
  · exact hP.exec hi hs (hrule hi) h

/-- What a reset and every rule keep every step keeps. -/
theorem OfStorage.step (hreset : ∀ s, P s → P s.afterReset)
    (hrule : ∀ i s, i ≠ .reset → P s → (ownRule i s).Leaves P) {s t : State} (hs : P s) (h : step s = .next t) :
    P t := by
  have haccepted : ∀ rest, P (s.accepted rest) := fun rest => hP s (s.accepted rest) hs
  match hin : s.inputs with
  | [] =>
    obtain rfl := Host.Outcome.next.inj ((step_idle hin).symm.trans h)
    exact hs
  | .assertReset :: rest =>
    have hstep : Machine.step s = .next { s with inputs := rest }.afterReset := by simp only [Machine.step, fetch, hin]
    obtain rfl := Host.Outcome.next.inj (hstep.symm.trans h)
    exact hreset _ (hP s { s with inputs := rest } hs)
  | .takeResponse :: rest =>
    obtain rfl := Host.Outcome.next.inj ((step_takeResponse hin).symm.trans h)
    exact haccepted rest
  | .command w :: rest =>
    cases hd : decode w with
    | error e =>
      obtain rfl := Host.Outcome.next.inj ((step_malformed hin hd).symm.trans h)
      exact hP.finish (r := .reject (malformedCode e)) (haccepted rest) trivial
    | ok i =>
      exact hP.exec_or_reset (haccepted rest) (hreset _ (haccepted rest)) (fun hi => hrule i _ hi (haccepted rest))
        ((step_decoded hin hd).symm.trans h)

end

/-! ### What WR writes (`20_memory.md` R74, R76, R79, R82) -/

/-- The states a successful WR leaves, by its target. -/
inductive Written (s : State) : BitVec 4 → BitVec 20 → State → Prop
  | ilen {v : Word32} (h : v.toNat ≤ s.cfg.ibufBytes) : Written s 0 5 { s with ilen := v }
  | clen {v : Word32} (h : v.toNat ≤ s.cfg.cbufWords) : Written s 0 8 { s with clen := v }
  | lzwCap {v : Word32} (he : s.eActive = false) (hd : s.dActive = false) (hlow : 256 ≤ v.toNat)
      (hhigh : v.toNat ≤ 65536) : Written s 0 9 { s with lzwCap := v }
  | ibuf {addr : BitVec 20} (v : Byte) (h : addr.toNat < s.cfg.ibufBytes) : Written s 1 addr (s.ibufWrite addr.toNat v)
  | cbuf {addr : BitVec 20} (v : Code) (h : addr.toNat < s.cfg.cbufWords) : Written s 4 addr (s.cbufWrite addr.toNat v)
  | cb {addr : BitVec 20} {sym : Byte} {f : Nat} {v : Word32} {e : CbEntry}
      (h : cbEntryWrite (cbEntry s.cb sym) f v = some e) :
      Written s 7 addr { s with cb := cbSet s.cb sym e, cbSrc := .host, fwWidth := 0 }

/-- Numbers of the writable spaces. -/
theorem space_ofNum_writable {n : BitVec 4} {sp : Space} (h : Space.ofNum n = some sp) :
    (sp = .csr → n = 0) ∧ (sp = .ibuf → n = 1) ∧ (sp = .cbuf → n = 4) ∧ (sp = .cb → n = 7) := by
  revert n
  cases sp <;> decide

/-- Numbers of the writable registers. -/
theorem csr_ofNum_of_writable {a : Nat} {r : Csr} (h : Csr.ofNum a = some r) :
    (r = .ilen → a = 5) ∧ (r = .clen → a = 8) ∧ (r = .lzwCap → a = 9) := by
  unfold Csr.ofNum at h
  split at h <;> cases h <;> simp

theorem written_of_csrWrite {s t : State} {addr : BitVec 20} {r : Csr} {v : Word32} (hr : Csr.ofNum addr.toNat = some r)
    (h : csrWrite s r v = .ok t) : Written s 0 addr t := by
  obtain ⟨hilen, hclen, hcap⟩ := csr_ofNum_of_writable hr
  cases r
  case ilen =>
    obtain rfl : addr = 5 := BitVec.eq_of_toNat_eq (hilen rfl)
    simp only [csrWrite] at h
    split at h <;> cases h
    exact .ilen ‹_›
  case clen =>
    obtain rfl : addr = 8 := BitVec.eq_of_toNat_eq (hclen rfl)
    simp only [csrWrite] at h
    split at h <;> cases h
    exact .clen ‹_›
  case lzwCap =>
    obtain rfl : addr = 9 := BitVec.eq_of_toNat_eq (hcap rfl)
    simp only [csrWrite] at h
    split_ifs at h with hactive hrange
    cases h
    obtain ⟨he, hd⟩ := by simpa using hactive
    exact .lzwCap he hd (by omega) (by omega)
  all_goals exact nomatch h

theorem written_of_memWrite {s t : State} {space : BitVec 4} {sp : Space} {addr : BitVec 20} {v : Word32}
    (hsp : Space.ofNum space = some sp) (h : memWrite s sp addr v = .ok t) : Written s space addr t := by
  obtain ⟨hcsr, hibuf, hcbuf, hcb⟩ := space_ofNum_writable hsp
  cases sp
  case csr =>
    obtain rfl := hcsr rfl
    simp only [memWrite] at h
    split at h
    · exact nomatch h
    · exact written_of_csrWrite ‹_› h
  case ibuf =>
    obtain rfl := hibuf rfl
    simp only [memWrite] at h
    split_ifs at h with hin hwidth
    cases h
    exact .ibuf _ hin
  case cbuf =>
    obtain rfl := hcbuf rfl
    simp only [memWrite] at h
    split_ifs at h with hin hwidth
    cases h
    exact .cbuf _ hin
  case cb =>
    obtain rfl := hcb rfl
    simp only [memWrite] at h
    split at h
    · exact nomatch h
    · simp only [cbWindowWrite] at h
      split at h <;> cases h
      exact .cb ‹_›
  all_goals exact nomatch h

theorem wrRule_written (space : BitVec 4) (addr : BitVec 20) (v : Word32) (s : State) :
    (wrRule space addr v s).Leaves (Written s space addr) := by
  unfold wrRule
  split
  · trivial
  · split
    · trivial
    · exact written_of_memWrite ‹_› ‹_›

/-! ### The frame of every command (`70_reset_and_hazards.md` R313) -/

/-- A group of storage is the same in both states, the written cells of IBUF and CBUF too. -/
def Storage.Kept (s t : State) : Storage → Prop
  | .ibuf => t.ibuf = s.ibuf ∧ t.ilen = s.ilen
  | .cbuf => t.cbuf = s.cbuf ∧ t.clen = s.clen
  | g => Storage.Same s t g

/-- Only the groups listed may differ. -/
structure KeepsOutside (ws : List Storage) (s t : State) : Prop where
  group : ∀ g, g ∉ ws → g.Kept s t
  cfg : t.cfg = s.cfg
  epoch : t.epoch = s.epoch

theorem KeepsOutside.refl (ws : List Storage) (s : State) : KeepsOutside ws s s where
  group g _ := by cases g <;> simp [Storage.Kept, Storage.Same]
  cfg := rfl
  epoch := rfl

theorem KeepsOutside.trans {ws : List Storage} {s t u : State} (hst : KeepsOutside ws s t)
    (htu : KeepsOutside ws t u) : KeepsOutside ws s u where
  group g hg := by
    have h1 := hst.group g hg
    have h2 := htu.group g hg
    cases g <;> simp_all [Storage.Kept, Storage.Same]
  cfg := htu.cfg.trans hst.cfg
  epoch := htu.epoch.trans hst.epoch

/-- `u` with one group of `t`. -/
def State.withGroupOf (t : State) (u : State) : Storage → State
  | .ibuf => { u with ibuf := t.ibuf, ilen := t.ilen }
  | .obuf => { u with obuf := t.obuf }
  | .bits => { u with bits := t.bits }
  | .cbuf => { u with cbuf := t.cbuf, clen := t.clen }
  | .table => { u with nleaf := t.nleaf, nodes := t.nodes, heap := t.heap }
  | .summary => { u with phase := t.phase, root := t.root, total := t.total, totbits := t.totbits }
  | .cb => { u with cb := t.cb, cbSrc := t.cbSrc, fwWidth := t.fwWidth }
  | .edict => { u with edict := t.edict, ew := t.ew, eActive := t.eActive }
  | .ddict => { u with ddict := t.ddict, dprev := t.dprev, dActive := t.dActive }
  | .lzwCap => { u with lzwCap := t.lzwCap }

theorem keepsOutside_withGroupOf (t u : State) (w : Storage) : KeepsOutside [w] u (t.withGroupOf u w) := by
  refine ⟨fun g hg => ?_, ?_, ?_⟩
  · cases w <;> cases g <;> simp_all [Storage.Kept, Storage.Same, State.withGroupOf]
  · cases w <;> rfl
  · cases w <;> rfl

theorem KeepsOutside.mono {ws ws' : List Storage} {s t : State} (h : KeepsOutside ws s t) (hws : ws ⊆ ws') :
    KeepsOutside ws' s t :=
  { h with group := fun g hg => h.group g fun hmem => hg (hws hmem) }

theorem keepsOutside_foldl_withGroupOf (ws : List Storage) (t u : State) :
    KeepsOutside ws u (ws.foldl t.withGroupOf u) := by
  induction ws generalizing u with
  | nil => exact .refl [] u
  | cons w ws ih =>
    exact ((keepsOutside_withGroupOf t u w).mono (by simp)).trans ((ih _).mono (List.subset_cons_self w ws))

/-- A state that is `s` with some groups of its own differs from `s` in these alone. -/
theorem keepsOutside_of_eq {ws : List Storage} {s t : State} (h : ws.foldl t.withGroupOf s = t) :
    KeepsOutside ws s t :=
  h ▸ keepsOutside_foldl_withGroupOf ws t s

theorem keepsOutside_foldl {α : Type} {ws : List Storage} {f : State → α → State}
    (hf : ∀ s a, KeepsOutside ws s (f s a)) (l : List α) (s : State) : KeepsOutside ws s (l.foldl f s) := by
  induction l generalizing s with
  | nil => exact .refl ws s
  | cons a l ih => exact (hf s a).trans (ih (f s a))

/-! The state operations -/

theorem keepsOutside_addLeaf (s : State) (sym : Byte) (weight : Weight) :
    KeepsOutside [.table] s (s.addLeaf sym weight) :=
  keepsOutside_of_eq rfl

theorem keepsOutside_mergeOnce (s : State) : KeepsOutside [.table, .summary] s s.mergeOnce := by
  rw [mergeOnce_frame]
  exact keepsOutside_of_eq rfl

theorem keepsOutside_mergeAll (fuel : Nat) (s : State) :
    KeepsOutside [.table, .summary] s (State.mergeAll fuel s) := by
  induction fuel generalizing s with
  | zero => exact .refl _ s
  | succ fuel ih =>
    unfold State.mergeAll
    split
    · exact (keepsOutside_mergeOnce s).trans (ih _)
    · exact .refl _ s

theorem keepsOutside_assignHuffman (s : State) : KeepsOutside [.summary, .cb] s s.assignHuffman :=
  keepsOutside_of_eq rfl

theorem keepsOutside_encodeByte (s : State) (c : Byte) : KeepsOutside [.cbuf, .edict] s (s.encodeByte c) := by
  rw [encodeByte_frame]
  exact keepsOutside_of_eq rfl

theorem keepsOutside_encoderFlush (s : State) : KeepsOutside [.cbuf, .edict] s s.encoderFlush := by
  rw [encoderFlush_frame]
  exact keepsOutside_of_eq rfl

/-! The rules -/

theorem appendBits_keepsOutside (add : List Bool) (s : State) :
    (appendBits add s).Leaves (KeepsOutside [.bits] s) :=
  leaves_ite trivial (keepsOutside_of_eq rfl)

theorem storeDecoded_keepsOutside (s : State) (e : DecodeEnd) :
    (storeDecoded s e).Leaves (KeepsOutside [.obuf] s) := by
  cases e with
  | done out => exact keepsOutside_of_eq rfl
  | noCode out start => exact keepsOutside_of_eq rfl
  | full => trivial

theorem unpackBits_keepsOutside (n off : Nat) (s : State) : (unpackBits n off s).Leaves (KeepsOutside [.bits] s) :=
  leaves_ite trivial (leaves_ite trivial (keepsOutside_of_eq rfl))

theorem Written.keepsOutside {space : BitVec 4} {addr : BitVec 20} {s t : State} (h : Written s space addr t) :
    KeepsOutside (wrWrites space addr) s t := by
  cases h <;> exact keepsOutside_of_eq rfl

theorem decodeCode_keepsOutside (k : Code) (s : State) :
    (decodeCode k s).Leaves (KeepsOutside [.obuf, .ddict] s) := by
  obtain h | h | ⟨entry, d, h⟩ := decodeCode_cases k s <;> rw [h]
  · exact .refl _ s
  · trivial
  · exact keepsOutside_of_eq rfl

theorem CmdResult.Leaves.imp {P Q : State → Prop} {r : CmdResult} (h : r.Leaves P) (hPQ : ∀ t, P t → Q t) :
    r.Leaves Q := by
  cases r with
  | success t data => exact hPQ t h
  | reject code => trivial
  | fault t code info => exact hPQ t h

theorem decodeCodes_keepsOutside (ks : List Code) (j : Nat) (s : State) :
    (decodeCodes ks j s).Leaves (KeepsOutside [.obuf, .ddict] s) := by
  induction ks generalizing j s with
  | nil => exact keepsOutside_of_eq rfl
  | cons k ks ih =>
    have hk := decodeCode_keepsOutside k s
    unfold decodeCodes
    cases hr : decodeCode k s with
    | success t d =>
      rw [hr] at hk
      exact (ih (j + 1) t).imp fun _ => hk.trans
    | reject code => trivial
    | fault t code info => rwa [hr] at hk

theorem ownRule_keepsOutside (i : Instr) (hi : i ≠ .reset) (s : State) :
    (ownRule i s).Leaves (KeepsOutside (writes i) s) := by
  cases i with
  | reset => exact absurd rfl hi
  | nop => exact .refl _ s
  | rd space addr =>
    simp only [ownRule]
    obtain h | ⟨v, h⟩ := rdRule_cases space addr s <;> rw [h]
    · trivial
    · exact .refl _ s
  | wr space addr v => exact (wrRule_written space addr v s).imp fun _ h => h.keepsOutside
  | bssClr => exact keepsOutside_of_eq rfl
  | bssAppend n bits => exact leaves_ite trivial (appendBits_keepsOutside _ s)
  | bssAppsym sym =>
    simp only [ownRule, bssAppsymRule]
    split
    · exact .refl _ s
    · exact appendBits_keepsOutside _ s
  | bssEnc => exact appendBits_keepsOutside _ s
  | bssDec => exact storeDecoded_keepsOutside s _
  | bssPack hdr => exact leaves_ite trivial (keepsOutside_of_eq rfl)
  | bssUnpack hdr nbits =>
    exact leaves_ite (leaves_ite trivial (unpackBits_keepsOutside _ _ s)) (unpackBits_keepsOutside _ _ s)
  | htbClr => exact keepsOutside_of_eq rfl
  | htbLoad sym weight => exact leaves_ite trivial (leaves_ite trivial (keepsOutside_addLeaf s sym _))
  | htbCount order =>
    have hclear : KeepsOutside [.table, .summary, .cb] s s.clearTable := keepsOutside_of_eq rfl
    exact hclear.trans (keepsOutside_foldl (fun s sym => (keepsOutside_addLeaf s sym _).mono (by simp)) _ _)
  | htbStep => exact leaves_ite trivial (leaves_ite trivial (keepsOutside_mergeOnce s))
  | htbAssign => exact leaves_ite trivial (leaves_ite trivial (leaves_ite trivial (keepsOutside_assignHuffman s)))
  | htbBuild =>
    exact leaves_ite trivial (leaves_ite trivial (((keepsOutside_mergeAll _ s).mono (by simp [writes])).trans
      ((keepsOutside_assignHuffman _).mono (by simp [writes]))))
  | lzwEinit => exact keepsOutside_of_eq rfl
  | lzwEbyte c =>
    refine leaves_ite trivial ?_
    cases s.mustEmit c with
    | none => exact keepsOutside_encodeByte s c
    | some e => exact leaves_ite trivial (keepsOutside_encodeByte s c)
  | lzwEflush =>
    refine leaves_ite trivial ?_
    split
    · exact keepsOutside_encoderFlush s
    · exact leaves_ite trivial (keepsOutside_encoderFlush s)
  | lzwEnc =>
    have hinit : KeepsOutside [.cbuf, .edict] s s.encoderInit := keepsOutside_of_eq rfl
    exact hinit.trans ((keepsOutside_foldl keepsOutside_encodeByte _ _).trans (keepsOutside_encoderFlush _))
  | lzwDinit => exact keepsOutside_of_eq rfl
  | lzwDcode k => exact leaves_ite trivial (decodeCode_keepsOutside k s)
  | lzwDec =>
    have hinit : KeepsOutside [.obuf, .ddict] s s.decoderInit := keepsOutside_of_eq rfl
    exact (decodeCodes_keepsOutside _ 0 _).imp fun _ => hinit.trans
  | fwAssign => exact leaves_ite trivial (leaves_ite trivial (keepsOutside_of_eq rfl))
  | fwEnc => exact leaves_ite trivial (leaves_ite trivial (keepsOutside_of_eq rfl))
  | fwDec =>
    have hempty : KeepsOutside [.obuf] s { s with obuf := [] } := keepsOutside_of_eq rfl
    exact leaves_ite trivial (leaves_ite hempty (leaves_ite hempty (leaves_ite hempty
      (storeDecoded_keepsOutside s _))))

/-- Every command but RESET keeps what its row does not write. -/
theorem exec_keepsOutside {i : Instr} (hi : i ≠ .reset) {s t : State} (h : exec i s = .next t) :
    KeepsOutside (writes i) s t := by
  refine OfStorage.exec (fun t u ht => ?_) hi (.refl _ s) (ownRule_keepsOutside i hi s) h
  exact ht.trans ⟨fun g _ => by cases g <;> simp [Storage.Kept, Storage.Same, State.withRecordOf], rfl, rfl⟩

theorem Storage.Kept.same {s t : State} {g : Storage} (hepoch : t.epoch = s.epoch) (h : g.Kept s t) :
    Storage.Same s t g := by
  cases g
  case ibuf | cbuf =>
    obtain ⟨hcells, hlen⟩ := h
    refine ⟨fun a => ?_, hlen⟩
    simp only [State.ibufRead, State.cbufRead, hcells, hepoch]
  all_goals exact h

/-- No command consumes the host's inputs or takes its responses. -/
theorem exec_port {i : Instr} {s t : State} (h : exec i s = .next t) :
    t.inputs = s.inputs ∧ t.responses = s.responses := by
  by_cases hi : i = .reset
  · subst hi
    obtain rfl := Host.Outcome.next.inj h
    exact ⟨rfl, rfl⟩
  · obtain ⟨rule, hrule, -⟩ := exec_finish hi
    obtain ⟨hexec, hrecord⟩ := hrule s
    obtain rfl := Host.Outcome.next.inj (hexec.symm.trans h)
    generalize rule s = r at hrecord ⊢
    cases hrecord with
    | success data ht =>
      rw [← ht]
      exact ⟨rfl, rfl⟩
    | reject code => simp
    | fault code info _ ht =>
      rw [← ht]
      exact ⟨rfl, rfl⟩

/-- Settles O13: each rule changes only groups its row writes, and RESET's row has them all. -/
theorem frameOfEveryCommand : Obligations.FrameOfEveryCommand := by
  intro i s t h
  obtain ⟨hin, hout⟩ := exec_port h
  by_cases hi : i = .reset
  · subst hi
    obtain rfl := Host.Outcome.next.inj h
    exact ⟨fun g hg => absurd (by cases g <;> simp [writes]) hg, rfl, hin, hout, fun hne => absurd rfl hne⟩
  · obtain ⟨hgroup, hcfg, hepoch⟩ := exec_keepsOutside hi h
    exact ⟨fun g hg => (hgroup g hg).same hepoch, hcfg, hin, hout, fun _ => hepoch⟩

end Sys2Proof.Machine
end

/-! PROOF. The stores into IBUF and CBUF (`20_memory.md` R79, `43_lzw_dict_accumulator.md` R225 to R231): a write
changes one cell, and the encoder writes at CLEN, which it then passes. -/

section
namespace Sys2Proof.Machine

/-! ### WR -/

theorem exec_wr_leaves {P : State → Prop} (hP : OfStorage P) {s t : State} {space : BitVec 4} {addr : BitVec 20}
    {v : Word32} (hs : P s) (hwritten : ∀ t, Written s space addr t → P t)
    (h : exec (.wr space addr v) s = .next t) : P t :=
  hP.exec (i := .wr space addr v) (by simp) hs ((wrRule_written space addr v s).imp hwritten) h

/-- WR changes no cell of IBUF but the addressed one, and none when the target is another space. -/
theorem ibufRead_wr {s t : State} {space : BitVec 4} {addr : BitVec 20} {v : Word32}
    (h : exec (.wr space addr v) s = .next t) {a : Nat} (ha : space = 1 → a ≠ addr.toNat) :
    t.ibufRead a = s.ibufRead a := by
  refine exec_wr_leaves (P := fun t => t.ibufRead a = s.ibufRead a) (fun _ _ h => h) rfl (fun t ht => ?_) h
  cases ht
  case ibuf v _ => rw [ibufRead_ibufWrite, if_neg (ha rfl)]
  all_goals rfl

/-- WR changes no cell of CBUF but the addressed one, and none when the target is another space. -/
theorem cbufRead_wr {s t : State} {space : BitVec 4} {addr : BitVec 20} {v : Word32}
    (h : exec (.wr space addr v) s = .next t) {a : Nat} (ha : space = 4 → a ≠ addr.toNat) :
    t.cbufRead a = s.cbufRead a := by
  refine exec_wr_leaves (P := fun t => t.cbufRead a = s.cbufRead a) (fun _ _ h => h) rfl (fun t ht => ?_) h
  cases ht
  case cbuf v _ => rw [cbufRead_cbufWrite, if_neg (ha rfl)]
  all_goals rfl

/-! ### The encoder -/

/-- One byte stores at CLEN at most. -/
theorem cbufRead_encodeByte (s : State) (c : Byte) {a : Nat} (ha : a ≠ s.clen.toNat) :
    (s.encodeByte c).cbufRead a = s.cbufRead a := by
  obtain ⟨k, hk⟩ | ⟨w, hw, hnew⟩ := extends_or_new s c
  · rw [encodeByte_of_extends hk]
    rfl
  · rw [encodeByte_of_new hw hnew]
    exact (cbufRead_emitCode s w a).trans (if_neg ha)

/-- The flush stores at CLEN at most. -/
theorem cbufRead_encoderFlush (s : State) {a : Nat} (ha : a ≠ s.clen.toNat) :
    s.encoderFlush.cbufRead a = s.cbufRead a := by
  cases hw : s.ew with
  | none =>
    rw [encoderFlush_of_none hw]
    rfl
  | some e =>
    rw [encoderFlush_of_some hw]
    exact (cbufRead_emitCode s e a).trans (if_neg ha)

theorem exec_lzwEbyte_cbufRead {s t : State} {c : Byte} {a : Nat} (h : exec (.lzwEbyte c) s = .next t)
    (ha : a ≠ s.clen.toNat) : t.cbufRead a = s.cbufRead a := by
  refine OfStorage.exec (P := fun t => t.cbufRead a = s.cbufRead a) (fun _ _ h => h) (by simp) rfl ?_ h
  refine leaves_ite trivial ?_
  cases s.mustEmit c with
  | none => exact cbufRead_encodeByte s c ha
  | some e => exact leaves_ite trivial (cbufRead_encodeByte s c ha)

theorem exec_lzwEflush_cbufRead {s t : State} {a : Nat} (h : exec .lzwEflush s = .next t)
    (ha : a ≠ s.clen.toNat) : t.cbufRead a = s.cbufRead a := by
  refine OfStorage.exec (P := fun t => t.cbufRead a = s.cbufRead a) (fun _ _ h => h) (by simp) rfl ?_ h
  refine leaves_ite trivial ?_
  split
  · exact cbufRead_encoderFlush s ha
  · exact leaves_ite trivial (cbufRead_encoderFlush s ha)

/-- CLEN does not fall, and from the CLEN left on every cell reads as before. -/
def StoresBelowClen (s t : State) : Prop :=
  s.clen.toNat ≤ t.clen.toNat ∧ ∀ a, t.clen.toNat ≤ a → t.cbufRead a = s.cbufRead a

theorem StoresBelowClen.trans {s t u : State} (hst : StoresBelowClen s t) (htu : StoresBelowClen t u) :
    StoresBelowClen s u :=
  ⟨hst.1.trans htu.1, fun a ha => (htu.2 a ha).trans (hst.2 a (htu.1.trans ha))⟩

theorem encodeByte_storesBelowClen (s : State) (c : Byte) (hsmall : s.codesDue < 2 ^ 32) :
    StoresBelowClen s (s.encodeByte c) := by
  obtain ⟨k, hk⟩ | ⟨w, hw, hnew⟩ := extends_or_new s c
  · rw [encodeByte_of_extends hk]
    exact ⟨le_rfl, fun _ _ => rfl⟩
  · have hclen : (s.encodeByte c).clen.toNat = s.clen.toNat + 1 := by
      rw [encodeByte_of_new hw hnew, ← codesDue_of_match hw]
      exact toNat_succ_of_match hw hsmall
    exact ⟨by omega, fun a ha => cbufRead_encodeByte s c (by omega)⟩

theorem encoderFlush_storesBelowClen (s : State) (hsmall : s.codesDue < 2 ^ 32) :
    StoresBelowClen s s.encoderFlush := by
  have hclen := clen_encoderFlush s hsmall
  cases hw : s.ew with
  | none =>
    rw [encoderFlush_of_none hw]
    exact ⟨le_rfl, fun _ _ => rfl⟩
  | some e =>
    rw [codesDue_of_match hw] at hclen
    exact ⟨by omega, fun a ha => cbufRead_encoderFlush s (by omega)⟩

theorem foldl_encodeByte_storesBelowClen (input : List Byte) {s : State}
    (hsmall : s.codesDue + input.length < 2 ^ 32) : StoresBelowClen s (input.foldl State.encodeByte s) := by
  induction input generalizing s with
  | nil => exact ⟨le_rfl, fun _ _ => rfl⟩
  | cons c input ih =>
    rw [List.length_cons] at hsmall
    have hdue := codesDue_encodeByte s c (by omega)
    exact (encodeByte_storesBelowClen s c (by omega)).trans (ih (by omega))

/-- LZW.ENC stores below the CLEN it leaves: it starts at 0 and no more codes are due than there are input bytes. -/
theorem encoded_storesBelowClen (s : State) : StoresBelowClen s.encoderInit s.encoded := by
  have hdue : s.encoderInit.codesDue = 0 := rfl
  have hsmall : s.encoderInit.codesDue + s.inputBytes.length < 2 ^ 32 := by
    rw [hdue, inputBytes_length, Nat.zero_add]
    exact s.ilen.isLt
  exact (foldl_encodeByte_storesBelowClen s.inputBytes hsmall).trans
    (encoderFlush_storesBelowClen _ ((codesDue_foldl_encodeByte s.inputBytes hsmall).trans_lt hsmall))

theorem exec_lzwEnc_cbufRead {s t : State} (h : exec .lzwEnc s = .next t) {a : Nat} (ha : t.clen.toNat ≤ a) :
    t.cbufRead a = s.cbufRead a := by
  refine OfStorage.exec (P := fun t => t.clen.toNat ≤ a → t.cbufRead a = s.cbufRead a) (fun _ _ h => h) (by simp)
    (fun _ => rfl) ?_ h ha
  exact (encoded_storesBelowClen s).2 a

/-- Settles O14: of the operations of the five commands only the writes of a cell and of the cell at CLEN store. -/
theorem storesChangeOnlyTheirCells : Obligations.StoresChangeOnlyTheirCells := by
  refine ⟨fun s t addr v a h ha => ibufRead_wr h fun _ => ha, fun s t addr v a h ha => cbufRead_wr h fun _ => ha,
    fun s t space addr v a h => ⟨fun hs => ibufRead_wr h fun e => absurd e hs,
      fun hs => cbufRead_wr h fun e => absurd e hs⟩,
    fun s t c a h ha => exec_lzwEbyte_cbufRead h ha, fun s t a h ha => exec_lzwEflush_cbufRead h ha,
    fun s t a h => ?einit, fun s t a h ha => exec_lzwEnc_cbufRead h ha⟩
  case einit =>
    exact OfStorage.exec (i := .lzwEinit) (P := fun t => t.cbufRead a = s.cbufRead a) (fun _ _ h => h) (by simp) rfl
      rfl h

end Sys2Proof.Machine
end

/-! PROOF. The single facts of the command set: the fault gate (`60_exceptions.md` R276), the resets (`10_state.md`
R60), the recording of outcomes (`60_exceptions.md` R273, R274), reads of registers and writes of cells. -/

section
namespace Sys2Proof.Machine

/-! ### The fault gate -/

/-- While FAULT is 1 the recording of any result leaves it 1. -/
theorem finish_faulted {s : State} {r : CmdResult} (hr : r.LeavesRecord s) (hs : s.faulted = true) :
    (finish s r).faulted = true := by
  cases hr with
  | success data ht =>
    obtain ⟨hfault, -⟩ := registers_of_withRecordOf ht
    exact hfault.trans hs
  | reject code => simpa using hs
  | fault code info => rfl

/-- A step that is no reset leaves FAULT at 1. -/
theorem step_keeps_fault {s t : State} (hs : s.faulted = true) (hr : ¬ ResetNext s) (h : step s = .next t) :
    t.faulted = true := by
  by_cases hc : ∀ w rest, s.inputs ≠ .command w :: rest
  · obtain ⟨hfault, -⟩ := step_no_command hc hr h
    exact hfault.trans hs
  · push Not at hc
    obtain ⟨w, rest, hin⟩ := hc
    obtain ⟨r, hfin, hrec⟩ := step_finish hin (decode_ne_reset hin hr)
    obtain rfl := Host.Outcome.next.inj (hfin.symm.trans h)
    exact finish_faulted hrec hs

theorem step_assertReset {s : State} {rest : List HostInput} (h : s.inputs = .assertReset :: rest) :
    step s = .next { s with inputs := rest }.afterReset := by
  simp only [step, fetch, h]

/-- A step that is a reset clears FAULT. -/
theorem step_reset_clears_fault {s t : State} (hr : ResetNext s) (h : step s = .next t) : t.faulted = false := by
  unfold ResetNext at hr
  split at hr
  · obtain rfl := Host.Outcome.next.inj ((step_assertReset ‹_›).symm.trans h)
    rfl
  · obtain rfl := Host.Outcome.next.inj ((step_decoded ‹_› hr).symm.trans h)
    rfl
  · exact hr.elim

theorem refuse_of_faulted {s : State} (code : RejectCode) (h : s.faulted = true) :
    s.refuse code = s.answer code.byte 0 := by
  rw [State.refuse, recordReject_of_faulted code h]

theorem exec_rd_err {s t : State} {space : BitVec 4} {addr : BitVec 20} (h : exec (.rd space addr) s = .next t) :
    t.err = some 0 ∨ t.err = some 0x05 := by
  obtain rfl := Host.Outcome.next.inj h
  obtain hr | ⟨v, hr⟩ := rdRule_cases space addr s <;> rw [hr]
  · exact .inr (answer_err _ _ _)
  · exact .inl (answer_err _ _ _)

/-- Settles O10: the gate refuses before the rule is looked at, decoding comes before the gate, and no recording of a
result clears FAULT. -/
theorem faultGateRefusesCommands : Obligations.FaultGateRefusesCommands := by
  refine ⟨fun i s hf hg => ?gate, fun s w rest e hf hin hd => ?malformed, exec_nop, fun s t space addr => exec_rd_err,
    fun s t hf h => ⟨fun hclear => ?_, fun hr => step_reset_clears_fault hr h⟩⟩
  case gate => exact (exec_of_shut_gate hg hf).trans (congrArg _ (refuse_of_faulted .faulted hf))
  case malformed =>
    rw [step_malformed hin hd, refuse_of_faulted (s := s.accepted rest) _ hf]
    cases e <;> rfl
  · by_contra hr
    exact absurd (hclear.symm.trans (step_keeps_fault hf hr h)) Bool.false_ne_true

/-! ### Resets -/

theorem resetValues_reset : ResetValues State.reset :=
  ⟨⟨rfl, rfl, rfl, rfl⟩, ⟨rfl, rfl, rfl, rfl, rfl, rfl⟩, rfl, ⟨rfl, rfl, rfl⟩, rfl, rfl, ⟨rfl, rfl, rfl⟩,
    cbEntry_cbCleared, rfl, ⟨rfl, rfl⟩, ⟨rfl, rfl⟩, ⟨rfl, rfl⟩, rfl⟩

/-- Settles O7: either reset leaves the elements of `State.reset`. -/
theorem resetsGiveTheResetValues : Obligations.ResetsGiveTheResetValues := by
  refine ⟨resetValues_reset, fun s => ⟨_, rfl, resetValues_reset, rfl, fun u rest hu => ?_⟩⟩
  subst hu
  exact ⟨_, step_assertReset rfl, resetValues_reset, rfl, rfl⟩

/-! ### The recording of outcomes -/

theorem responseWord_fields (err : BitVec 8) (data : Word32) :
    (responseWord err data).extractLsb' 56 8 = err ∧ (responseWord err data).extractLsb' 32 24 = 0 ∧
      (responseWord err data).extractLsb' 0 32 = data :=
  ⟨Laws.OpField.opField_wordOf err 0 data, aField_wordOf err 0 data, bField_wordOf err 0 data⟩

/-- Settles O8: a response has the layout of a word, and the recording is the definition of each outcome. -/
theorem outcomesAreRecordedAndAnswered : Obligations.OutcomesAreRecordedAndAnswered := by
  refine ⟨fun s err data => ⟨responseWord err data, rfl, responseWord_fields err data⟩, fun s code hf => ?_,
    fun s code hf => refuse_of_faulted code hf, fun s code info => rfl, rfl, rfl⟩
  rw [State.refuse, recordReject_of_unfaulted code hf]

/-! ### Reads of registers (`10_state.md` R54) -/

/-- RD of a register answers its content. -/
theorem exec_rd_csr {s : State} {addr : BitVec 20} {n : Nat} (r : Csr) (hr : Csr.ofNum addr.toNat = some r)
    (h : csrRead s r = BitVec.ofNat 32 n) : exec (.rd 0 addr) s = .next (s.answer 0 (BitVec.ofNat 32 n)) := by
  refine exec_rd_of_some (sp := .csr) rfl ?_
  simp only [memRead, hr, Option.map_some, h]

theorem csr_num_lt {n : Nat} {r : Csr} (h : Csr.ofNum n = some r) : n < 0x1B := by
  unfold Csr.ofNum at h
  split at h <;> cases h <;> decide

theorem csr_ofNum_eq_none {n : Nat} (h : 0x1B ≤ n) : Csr.ofNum n = none :=
  Option.eq_none_iff_forall_ne_some.mpr fun _ hr => absurd (csr_num_lt hr) (not_lt.mpr h)

/-- A register read as it stands. -/
theorem word_eq_ofNat (w : Word32) : w = BitVec.ofNat 32 w.toNat := eq_ofNat_of_toNat_eq rfl

/-- A narrow register is read zero-extended. -/
theorem setWidth_eq_ofNat {n : Nat} (w : BitVec n) : w.setWidth 32 = BitVec.ofNat 32 w.toNat :=
  (BitVec.ofNat_toNat 32 w).symm

theorem low_word_eq (w : BitVec 64) : w.extractLsb' 0 32 = BitVec.ofNat 32 (w.toNat % 2 ^ 32) := by
  refine eq_ofNat_of_toNat_eq ?_
  simp

theorem high_word_eq (w : BitVec 64) : w.extractLsb' 32 32 = BitVec.ofNat 32 (w.toNat / 2 ^ 32) := by
  refine BitVec.eq_of_toNat_eq ?_
  rw [BitVec.extractLsb'_toNat, Nat.shiftRight_eq_div_pow, BitVec.toNat_ofNat]

/-- A match register has its code under the valid bit (`10_state.md` R54). -/
theorem matchWord_eq (k : Option Code) :
    matchWord k = BitVec.ofNat 32 (match k with | none => 0 | some c => 2 ^ 16 + c.toNat) := by
  cases k with
  | none => rfl
  | some c => exact emittedWord_eq c

/-- STATUS has its fields in their places (`10_state.md` R26). -/
theorem statusWord_eq (s : State) :
    statusWord s = BitVec.ofNat 32 (s.faulted.toNat
      + 2 * (match s.phase with | .load => 0 | .merge => 1 | .built => 2)
      + 8 * (match s.cbSrc with | .none => 0 | .huffman => 1 | .host => 2 | .fixed => 3)
      + 32 * s.eActive.toNat + 64 * s.dActive.toNat) := by
  refine eq_ofNat_of_toNat_eq ?_
  simp only [statusWord, toNat_append_eq_add, BitVec.toNat_ofBool]
  cases s.phase <;> cases s.cbSrc <;> simp [Phase.value, CbSrc.value] <;> omega

/-- Settles O16: each number names its register, whose content is the number listed. -/
theorem rdReturnsRegisters : Obligations.RdReturnsRegisters := by
  intro s
  simp only [List.forall_mem_cons]
  refine ⟨⟨exec_rd_csr .id rfl rfl, exec_rd_csr .status rfl (statusWord_eq s),
      exec_rd_csr .errcode rfl (setWidth_eq_ofNat _), exec_rd_csr .errinfo rfl (word_eq_ofNat _),
      exec_rd_csr .cmdcnt rfl (word_eq_ofNat _), exec_rd_csr .ilen rfl (word_eq_ofNat _), exec_rd_csr .olen rfl rfl,
      exec_rd_csr .bitlen rfl rfl, exec_rd_csr .clen rfl (word_eq_ofNat _), exec_rd_csr .lzwCap rfl (word_eq_ofNat _),
      exec_rd_csr .htbNleaf rfl rfl, exec_rd_csr .htbNnode rfl rfl, exec_rd_csr .htbHeapsz rfl rfl,
      exec_rd_csr .htbRoot rfl (setWidth_eq_ofNat _), fun _ h => absurd h List.not_mem_nil⟩,
    ⟨exec_rd_csr .htbTotalLo rfl (low_word_eq _), exec_rd_csr .htbTotalHi rfl (high_word_eq _),
      exec_rd_csr .htbTotbitsLo rfl (low_word_eq _), exec_rd_csr .htbTotbitsHi rfl (high_word_eq _),
      exec_rd_csr .fwWidth rfl (setWidth_eq_ofNat _), exec_rd_csr .enext rfl rfl, exec_rd_csr .ew rfl (matchWord_eq _),
      exec_rd_csr .dnext rfl rfl, exec_rd_csr .dprev rfl (matchWord_eq _), exec_rd_csr .capIbuf rfl rfl,
      exec_rd_csr .capObuf rfl rfl, exec_rd_csr .capBits rfl rfl, exec_rd_csr .capCbuf rfl rfl,
      fun _ h => absurd h List.not_mem_nil⟩,
    fun n hn => exec_rd_of_none (sp := .csr) rfl ?_⟩
  simp only [memRead, csr_ofNum_eq_none hn, Option.map_none]

/-! ### Writes of cells (`20_memory.md` R79) -/

/-- A value no wider than n bits is its n low bits. -/
theorem setWidth_eq_low {n : Nat} (v : Word32) : v.setWidth n = v.extractLsb' 0 n := by
  refine BitVec.eq_of_getLsbD_eq fun j hj => ?_
  simp [hj]

/-- Settles O19: the window stores the value's low bits, or refuses a value that has others. -/
theorem wrSetsBufferCells : Obligations.WrSetsBufferCells := by
  intro s addr v hf
  refine ⟨fun hin hv => ⟨s.ibufWrite addr.toNat (v.extractLsb' 0 8), exec_wr_of_ok (sp := .ibuf) hf rfl ?ibuf, rfl,
      fun a => ibufRead_ibufWrite s _ a _⟩,
    fun hin hv => exec_wr_of_error (sp := .ibuf) hf rfl ((if_pos hin).trans (if_neg hv.not_ge)),
    fun hin hv => ⟨s.cbufWrite addr.toNat (v.extractLsb' 0 16), exec_wr_of_ok (sp := .cbuf) hf rfl ?cbuf, rfl,
      fun a => cbufRead_cbufWrite s _ a _⟩,
    fun hin hv => exec_wr_of_error (sp := .cbuf) hf rfl ((if_pos hin).trans (if_neg hv.not_ge))⟩
  case ibuf | cbuf =>
    rw [← setWidth_eq_low]
    exact (if_pos hin).trans (if_pos hv)

/-! ### Writes of codebook words (`20_memory.md` R82) -/

/-- A write of field word f that is accepted sets the entry and makes the host the codebook's writer. -/
theorem exec_wr_cb {s : State} {addr : BitVec 20} {sym : Byte} {f : Nat} {v : Word32} {e : CbEntry}
    (hf : s.faulted = false) (haddr : addr.toNat = 16 * sym.toNat + f) (hf8 : f ≤ 8)
    (he : cbEntryWrite (cbEntry s.cb sym) f v = some e) :
    exec (.wr 7 addr v) s =
      .next ({ s with cb := cbSet s.cb sym e, cbSrc := .host, fwWidth := 0 }.answer 0 0) := by
  refine exec_wr_of_ok (sp := .cb) hf rfl ?_
  simp only [memWrite, cbAddress_eq_some haddr hf8, cbWindowWrite, he]

theorem exec_wr_cb_refused {s : State} {addr : BitVec 20} {sym : Byte} {f : Nat} {v : Word32}
    (hf : s.faulted = false) (haddr : addr.toNat = 16 * sym.toNat + f) (hf8 : f ≤ 8)
    (he : cbEntryWrite (cbEntry s.cb sym) f v = none) : exec (.wr 7 addr v) s = .next (s.refuse .badArg) := by
  refine exec_wr_of_error (sp := .cb) hf rfl ?_
  simp only [memWrite, cbAddress_eq_some haddr hf8, cbWindowWrite, he]

/-- A condition of word 0 that is refused: a reserved bit, a length above 255, a valid entry of length 0. -/
def Word0Refused (v : Word32) : Prop :=
  v.toNat / 2 ^ 9 % 2 ^ 22 ≠ 0 ∨ 255 < v.toNat % 2 ^ 9 ∨ (2 ^ 31 ≤ v.toNat ∧ v.toNat % 2 ^ 9 = 0)

theorem valid_bit_iff (v : Word32) : v.getLsbD 31 = true ↔ 2 ^ 31 ≤ v.toNat := by
  have h := v.isLt
  rw [BitVec.getLsbD, Nat.testBit_eq_decide_div_mod_eq, decide_eq_true_iff]
  omega

theorem len_field_toNat (v : Word32) : (v.extractLsb' 0 9).toNat = v.toNat % 2 ^ 9 := by simp

theorem reserved_field_toNat (v : Word32) : (v.extractLsb' 9 22).toNat = v.toNat / 2 ^ 9 % 2 ^ 22 := by
  simp [Nat.shiftRight_eq_div_pow]

theorem word0_check_iff (v : Word32) :
    (v.extractLsb' 9 22 ≠ 0 ∨ (v.extractLsb' 0 9).toNat > 255 ∨ (v.getLsbD 31 = true ∧ v.extractLsb' 0 9 = 0)) ↔
      Word0Refused v := by
  rw [Ne, ← BitVec.toNat_inj, ← BitVec.toNat_inj (x := v.extractLsb' 0 9), reserved_field_toNat, len_field_toNat,
    valid_bit_iff]
  rfl

theorem cbEntryWrite_word0_refused (e : CbEntry) {v : Word32} (h : Word0Refused v) : cbEntryWrite e 0 v = none :=
  if_pos ((word0_check_iff v).mpr h)

theorem cbEntryWrite_word0 (e : CbEntry) {v : Word32} (h : ¬ Word0Refused v) :
    cbEntryWrite e 0 v = some { e with valid := v.getLsbD 31, len := v.extractLsb' 0 9 } :=
  if_neg ((word0_check_iff v).not.mpr h)

theorem wordMask_getLsbD (f j : Nat) :
    ((0xFFFFFFFF : Word32).setWidth 256 <<< (32 * f)).getLsbD j =
      (decide (j < 256) && !decide (j < 32 * f) && decide (j < 32 * (f + 1))) := by
  have hones : (0xFFFFFFFF : Word32).getLsbD (j - 32 * f) = decide (j - 32 * f < 32) := by
    rw [show (0xFFFFFFFF : Word32) = BitVec.allOnes 32 from rfl, BitVec.getLsbD_allOnes]
  rw [BitVec.getLsbD_shiftLeft, BitVec.getLsbD_setWidth, hones, Bool.eq_iff_iff]
  simp only [Bool.and_eq_true, Bool.not_eq_true', decide_eq_true_iff, decide_eq_false_iff_not]
  omega

/-- Container word f takes the written value, the other bits stay. -/
theorem replaceContainerWord_getLsbD (bits : BitVec 256) {f : Nat} (v : Word32) {j : Nat} (hj : j < 256) :
    (replaceContainerWord bits f v).getLsbD j =
      if 32 * f ≤ j ∧ j < 32 * (f + 1) then v.getLsbD (j - 32 * f) else bits.getLsbD j := by
  rw [replaceContainerWord, BitVec.getLsbD_or, BitVec.getLsbD_and, BitVec.getLsbD_not, wordMask_getLsbD,
    BitVec.getLsbD_shiftLeft, BitVec.getLsbD_setWidth]
  by_cases hlow : j < 32 * f
  · simp [hj, hlow, not_le.mpr hlow]
  · by_cases hhigh : j < 32 * (f + 1)
    · simp [hj, hlow, not_lt.mp hlow, hhigh, show j - 32 * f < 256 by omega]
    · have hv : v.getLsbD (j - 32 * f) = false := BitVec.getLsbD_of_ge v _ (by omega)
      simp [hj, hlow, hhigh, hv]

/-- Settles O20: a write of a field word sets that entry alone. -/
theorem wrSetsCodebookWords : Obligations.WrSetsCodebookWords := by
  intro s addr v sym hf
  have hset : ∀ e r, r ≠ sym → cbEntry (cbSet s.cb sym e) r = cbEntry s.cb r := fun e r => cbEntry_cbSet_of_ne s.cb e
  refine ⟨fun haddr => ⟨fun hbad => ?refused, fun hreserved hlen hvalid => ?word0⟩, fun f hf1 hf8 haddr => ?word⟩
  case refused => exact exec_wr_cb_refused hf haddr (by omega) (cbEntryWrite_word0_refused _ hbad)
  case word0 =>
    have hgood : ¬ Word0Refused v := by
      rintro (h | h | ⟨h, h0⟩)
      · exact h hreserved
      · exact absurd hlen (by omega)
      · exact hvalid h h0
    refine ⟨_, exec_wr_cb hf haddr (by omega) (cbEntryWrite_word0 _ hgood), ?_, ?_, ?_, hset _⟩ <;>
      rw [cbEntry_cbSet_same]
    · exact valid_bit_iff v
    · exact len_field_toNat v
  case word =>
    obtain ⟨f, rfl⟩ := Nat.exists_eq_add_of_le' hf1
    refine ⟨_, exec_wr_cb hf haddr hf8 rfl, ?_, ?_, fun j hj => ?_, hset _⟩ <;> rw [cbEntry_cbSet_same]
    exact replaceContainerWord_getLsbD _ v hj

end Sys2Proof.Machine
end

/-! PROOF. The codebook's codes (`10_state.md` R45), the heap (`42_huffman_tree_builder.md` R181 to R184) and the reset
values as states that meet the invariants; the heap stays ordered. -/

section
namespace Sys2Proof.Machine

/-! ### Codes -/

/-- Settles O23: a valid entry's code is the bits of its container, and bit i of `bits_n` is bit n - 1 - i. -/
theorem codeReadsContainerBits : Obligations.CodeReadsContainerBits := by
  intro cb sym
  refine ⟨fun h => if_neg (by simp [h]), fun h => ⟨_, codeOf_of_valid h, bitsOf_length _ _, fun i hi => ?_⟩⟩
  rw [List.getElem?_eq_getElem hi, bitsOf_getElem, bitsOf_length]
  rfl

theorem mem_cb_iff {cb : Vector CbEntry 256} {e : CbEntry} : e ∈ cb.toList ↔ ∃ sym, cbEntry cb sym = e := by
  rw [Vector.mem_toList_iff, Vector.mem_iff_getElem]
  refine ⟨fun ⟨i, hi, he⟩ => ⟨BitVec.ofNat 8 i, ?_⟩, fun ⟨sym, he⟩ => ⟨sym.toNat, sym.isLt, he⟩⟩
  have hsym : (BitVec.ofNat 8 i).toNat = i := by simpa using hi
  simpa only [cbEntry, hsym] using he

/-- The bounds of every entry, symbol by symbol. -/
theorem codeLengthsOk_iff {cb : Vector CbEntry 256} : CodeLengthsOk cb ↔
    ∀ sym, (cbEntry cb sym).len.toNat ≤ 255 ∧ ((cbEntry cb sym).valid = true → 1 ≤ (cbEntry cb sym).len.toNat) := by
  refine ⟨fun h sym => h _ (mem_cb_iff.mpr ⟨sym, rfl⟩), fun h e he => ?_⟩
  obtain ⟨sym, rfl⟩ := mem_cb_iff.mp he
  exact h sym

theorem codeLengthsOk_cbCleared : CodeLengthsOk cbCleared := by
  refine codeLengthsOk_iff.mpr fun sym => ?_
  rw [cbEntry_cbCleared]
  exact ⟨Nat.zero_le _, fun h => nomatch h⟩

/-! ### The heap -/

/-- Settles O34: a push sifts its key up, a pop takes slot 0, which is the least in an ordered heap. -/
theorem heapPopsTheLeastKey : Obligations.HeapPopsTheLeastKey := by
  refine ⟨fun a b => ?_, fun h k => ⟨heapPush_perm h k, heapPush_ordered k⟩, fun h hne => ?_⟩
  · simp only [HeapKey.lt, Bool.or_eq_true, Bool.and_eq_true, decide_eq_true_iff, beq_iff_eq, BitVec.lt_def,
      BitVec.toNat_inj]
  · obtain ⟨⟨k, h'⟩, hpop⟩ := Option.isSome_iff_exists.mp ((heapPop_isSome h).trans (by simpa using hne))
    exact ⟨k, h', hpop, (heapPop_perm hpop).2, fun hord => ⟨heapPop_ordered hpop hord,
      fun x hx => HeapKey.lt_eq_false_iff.mpr (heapPop_least hpop hord x hx)⟩⟩

/-! ### The reset values meet the invariants -/

theorem reset_builderOk : BuilderOk State.reset := by
  refine ⟨⟨le_rfl, ?_, ?_, List.forall_mem_nil _⟩,
    ⟨fun _ => ⟨rfl, rfl, rfl, rfl, rfl⟩, fun h => absurd h (by decide), fun h => absurd h (by decide)⟩,
    .refl _, List.forall_mem_nil _, List.forall_mem_nil _, rfl⟩
  · exact List.forall_mem_nil _
  · exact List.nodup_nil

theorem reset_codebookOk : CodebookOk State.reset :=
  ⟨codeLengthsOk_cbCleared, fun _ => rfl, fun h => absurd h (by decide), fun h => absurd h (by decide), fun _ => rfl⟩

theorem dictOk_nil : DictOk [] := ⟨by decide, List.forall_mem_nil _⟩

theorem matchOk_none (d : List DictEntry) : MatchOk d none := fun _ h => nomatch h

theorem reset_lzwOk : LzwOk State.reset :=
  ⟨by decide, by decide, dictOk_nil, List.nodup_nil, matchOk_none [], dictOk_nil, matchOk_none [],
    fun h => absurd h (by decide), fun h => absurd h (by decide), fun _ => rfl⟩

theorem reset_buffersFit : BuffersFit State.reset :=
  ⟨by decide, reset_memory_wf.1, List.forall_mem_nil _, reset_memory_wf.2, List.forall_mem_nil _, Nat.zero_le _,
    Nat.zero_le _, Nat.zero_le _, Nat.zero_le _⟩

theorem heapOrdered_nil : HeapOrdered [] := fun _ h => absurd h (Nat.not_lt_zero _)

/-- Settles O54: every unit is empty. -/
theorem resetMeetsTheInvariants : Obligations.ResetMeetsTheInvariants :=
  ⟨reset_buffersFit, heapOrdered_nil, reset_builderOk, reset_codebookOk, reset_lzwOk⟩

/-! ### The heap stays ordered (`10_state.md` R40 (f)) -/

theorem addLeaf_heapOrdered {s : State} (sym : Byte) (weight : Weight) (h : HeapOrdered s.heap) :
    HeapOrdered (s.addLeaf sym weight).heap :=
  heapPush_ordered _ h

theorem foldl_addLeaf_heapOrdered (count : Byte → Weight) (syms : List Byte) {s : State} (h : HeapOrdered s.heap) :
    HeapOrdered (syms.foldl (fun t sym => t.addLeaf sym (count sym)) s).heap := by
  induction syms generalizing s with
  | nil => exact h
  | cons sym syms ih => exact ih (addLeaf_heapOrdered sym (count sym) h)

theorem mergeOnce_heapOrdered {s : State} (h : HeapOrdered s.heap) (hheap : 2 ≤ s.heap.length) :
    HeapOrdered s.mergeOnce.heap := by
  obtain ⟨x, y, h1, h2, hx, hy, hmerge⟩ := mergeOnce_two hheap
  rw [hmerge]
  exact heapPush_ordered _ (heapPop_ordered hy (heapPop_ordered hx h))

theorem mergeAll_heapOrdered (fuel : Nat) {s : State} (h : HeapOrdered s.heap) :
    HeapOrdered (State.mergeAll fuel s).heap := by
  induction fuel generalizing s with
  | zero => exact h
  | succ fuel ih =>
    unfold State.mergeAll
    split
    · exact ih (mergeOnce_heapOrdered h ‹_›)
    · exact h

/-- What a command that does not write the table group leaves of the heap. -/
theorem KeepsOutside.table {ws : List Storage} {s t : State} (h : KeepsOutside ws s t) (hw : .table ∉ ws) :
    t.nleaf = s.nleaf ∧ t.nodes = s.nodes ∧ t.heap = s.heap :=
  h.group .table hw

theorem wr_keepsTable (space : BitVec 4) (addr : BitVec 20) : .table ∉ wrWrites space addr := by
  unfold wrWrites
  split <;> simp

theorem ownRule_heapOrdered {i : Instr} (hi : i ≠ .reset) {s : State} (h : HeapOrdered s.heap) :
    (ownRule i s).Leaves fun t => HeapOrdered t.heap := by
  have frame : .table ∉ writes i → (ownRule i s).Leaves fun t => HeapOrdered t.heap := fun hw =>
    (ownRule_keepsOutside i hi s).imp fun t ht => by
      obtain ⟨-, -, hheap⟩ := ht.table hw
      rwa [hheap]
  cases i with
  | htbClr => exact heapOrdered_nil
  | htbLoad sym weight => exact leaves_ite trivial (leaves_ite trivial (addLeaf_heapOrdered sym _ h))
  | htbCount order => exact foldl_addLeaf_heapOrdered _ _ (s := s.clearTable) heapOrdered_nil
  | htbStep =>
    refine leaves_ite trivial ?_
    by_cases hheap : s.heap.length < 2
    · rw [if_pos hheap]
      trivial
    · rw [if_neg hheap]
      exact mergeOnce_heapOrdered h (by omega)
  | htbBuild => exact leaves_ite trivial (leaves_ite trivial (mergeAll_heapOrdered _ h))
  | wr space addr v => exact frame (wr_keepsTable space addr)
  | reset => exact absurd rfl hi
  | _ => exact frame (by simp [writes])

/-- Settles O56: the heap is only pushed, popped twice and pushed, or emptied. -/
theorem stepKeepsHeapOrder : Obligations.StepKeepsHeapOrder := fun _ _ hs h =>
  OfStorage.step (P := fun s => HeapOrdered s.heap) (fun _ _ h => h) (fun _ _ => heapOrdered_nil)
    (fun _ _ hi hs => ownRule_heapOrdered hi hs) hs h

end Sys2Proof.Machine
end

/-! PROOF. Every step keeps the invariants of the tree builder (`10_state.md` R32 to R40): a new leaf is one more tree
of one node, and the last node of a finished tree is its root. -/

section
namespace Sys2Proof.Machine

/-! ### One more leaf -/

section
variable {s : State} {sym : Byte} {weight : Weight}

/-- In phase LOAD the arena is the leaf table. -/
theorem leaves_eq_nodes (hcounts : CountsOk s) (hload : s.phase = .load) : s.leaves = s.nodes := by
  obtain ⟨hnodes, -⟩ := hcounts.1 hload
  exact List.take_of_length_le hnodes.le

theorem addLeaf_leaves (hcounts : CountsOk s) (hload : s.phase = .load) :
    (s.addLeaf sym weight).leaves = s.leaves ++ [leafNode sym weight] := by
  obtain ⟨hnodes, -⟩ := hcounts.1 hload
  rw [leaves_eq_nodes hcounts hload]
  exact List.take_of_length_le (by simp [State.addLeaf, hnodes])

theorem addLeaf_leavesOk (h : LeavesOk s) (hcounts : CountsOk s) (hload : s.phase = .load)
    (hnew : ∀ n ∈ s.leaves, n.sym ≠ sym) (hw : weight.toNat < 2 ^ 32) : LeavesOk (s.addLeaf sym weight) := by
  obtain ⟨-, hleaves, hsyms, -⟩ := h
  obtain ⟨hnodes, -⟩ := hcounts.1 hload
  refine ⟨by simp [State.addLeaf, hnodes], ?_, ?_, ?_⟩
  · rw [addLeaf_leaves hcounts hload]
    simp only [List.forall_mem_append, List.forall_mem_singleton]
    exact ⟨hleaves, rfl, rfl, rfl, hw⟩
  · rw [addLeaf_leaves hcounts hload, List.map_append]
    refine List.nodup_append.mpr ⟨hsyms, List.nodup_singleton _, ?_⟩
    rintro _ ha _ hb rfl
    obtain ⟨n, hn, rfl⟩ := List.mem_map.mp ha
    exact hnew n hn (List.mem_singleton.mp hb)
  · have hdrop : (s.addLeaf sym weight).nodes.drop (s.addLeaf sym weight).nleaf = [] :=
      List.drop_of_length_le (by simp [State.addLeaf, hnodes])
    rw [hdrop]
    exact List.forall_mem_nil _

theorem addLeaf_countsOk (hcounts : CountsOk s) (hload : s.phase = .load) : CountsOk (s.addLeaf sym weight) := by
  obtain ⟨hnodes, hheap, hregs⟩ := hcounts.1 hload
  refine ⟨fun _ => ⟨?_, ?_, hregs⟩, fun h => ?_, fun h => ?_⟩
  · simp [State.addLeaf, hnodes]
  · simp [State.addLeaf, hheap]
  all_goals exact absurd (hload.symm.trans h) (by decide)

theorem childIds_append_leafNode (nodes : List Node) (sym : Byte) (weight : Weight) :
    childIds (nodes ++ [leafNode sym weight]) = childIds nodes := by
  simp [childIds, leafNode]

theorem leafTotal_concat (leaves : List Node) (n : Node) :
    leafTotal (leaves ++ [n]) = leafTotal leaves + n.weight.toNat := by
  simp [leafTotal]

theorem childrenOk_of_leaves {nodes : List Node} (h : ∀ n ∈ nodes, n.leaf = true) : ChildrenOk nodes := by
  intro p hp hinner
  exact absurd (h p.1 (List.fst_mem_of_mem_zipIdx hp)) (by simp [hinner])

theorem addLeaf_forestOk (h : BuilderOk s) (hload : s.phase = .load) (hnew : ∀ n ∈ s.leaves, n.sym ≠ sym)
    (hw : weight.toNat < 2 ^ 32) : ForestOk (s.addLeaf sym weight) := by
  obtain ⟨hleaves, hcounts, hids, hweights, -, hsum⟩ := h
  obtain ⟨hnodes, -⟩ := hcounts.1 hload
  have hleaves' := addLeaf_leavesOk hleaves hcounts hload hnew hw
  have hid : (BitVec.ofNat 16 s.nleaf).toNat = s.nodes.length := by
    rw [toNat_nodeId ((nleaf_le hleaves).trans_lt (by decide)), hnodes]
  have hpush : (s.addLeaf sym weight).heap.Perm (⟨weight, BitVec.ofNat 16 s.nleaf⟩ :: s.heap) := heapPush_perm _ _
  refine ⟨?_, fun k hk => ?_, childrenOk_of_leaves fun n hn => ?_, ?_⟩
  · have hrange : (List.range (s.addLeaf sym weight).nodes.length).map (BitVec.ofNat 16) =
        (List.range s.nodes.length).map (BitVec.ofNat 16) ++ [BitVec.ofNat 16 s.nleaf] := by
      simp [State.addLeaf, List.range_succ, hnodes]
    have hchildren : childIds (s.addLeaf sym weight).nodes = childIds s.nodes := childIds_append_leafNode _ _ _
    rw [hrange, hchildren]
    exact ((hpush.map HeapKey.id).append_right _).trans
      ((hids.cons (BitVec.ofNat 16 s.nleaf)).trans (List.perm_append_singleton _ _).symm)
  · obtain rfl | hold := List.mem_cons.mp (hpush.subset hk)
    · refine weightOf_eq_some (n := leafNode sym weight) ?_
      simp [State.addLeaf, hid]
    · exact (weightOf_append _ (lt_of_weightOf (hweights k hold))).trans (hweights k hold)
  · rw [← leaves_eq_nodes (addLeaf_countsOk hcounts hload) hload] at hn
    exact (hleaves'.2.1 n hn).1
  · rw [addLeaf_leaves hcounts hload, leafTotal_concat, ← hsum, (hpush.map fun k => k.weight.toNat).sum_eq,
      List.map_cons, List.sum_cons, add_comm]
    rfl

theorem addLeaf_builderOk (h : BuilderOk s) (hload : s.phase = .load) (hnew : ∀ n ∈ s.leaves, n.sym ≠ sym)
    (hw : weight.toNat < 2 ^ 32) : BuilderOk (s.addLeaf sym weight) :=
  ⟨addLeaf_leavesOk h.leavesOk h.countsOk hload hnew hw, addLeaf_countsOk h.countsOk hload,
    addLeaf_forestOk h hload hnew hw⟩

end

/-! ### HTB.COUNT -/

theorem clearTable_builderOk (s : State) : BuilderOk s.clearTable := reset_builderOk

theorem countOrder_nodup (order : Bool) (input : List Byte) : (countOrder order input).Nodup := by
  cases order with
  | false => exact (countOrder_false_ascending input).imp fun h e => by simp [e] at h
  | true => exact (countOrder_true_moreFrequent input).imp fun h e => by simp [e, MoreFrequent] at h

theorem foldl_addLeaf_builderOk {count : Byte → Weight} (hcount : ∀ sym, (count sym).toNat < 2 ^ 32)
    {syms : List Byte} (hsyms : syms.Nodup) {s : State} (h : BuilderOk s) (hload : s.phase = .load)
    (hnew : ∀ sym ∈ syms, ∀ n ∈ s.leaves, n.sym ≠ sym) :
    BuilderOk (syms.foldl (fun t sym => t.addLeaf sym (count sym)) s) := by
  induction syms generalizing s with
  | nil => exact h
  | cons sym syms ih =>
    obtain ⟨hfirst, hrest⟩ := List.nodup_cons.mp hsyms
    obtain ⟨hnewFirst, hnewRest⟩ := List.forall_mem_cons.mp hnew
    refine ih hrest (addLeaf_builderOk h hload hnewFirst (hcount sym)) hload fun r hr n hn => ?_
    rw [addLeaf_leaves h.countsOk hload] at hn
    obtain hold | hadded := List.mem_append.mp hn
    · exact hnewRest r hr n hold
    · rw [List.mem_singleton.mp hadded]
      rintro rfl
      exact hfirst hr

/-- A count is at most ILEN. -/
theorem count_lt (s : State) (sym : Byte) : (BitVec.ofNat 40 (s.inputBytes.count sym)).toNat < 2 ^ 32 := by
  have hcount : s.inputBytes.count sym ≤ s.ilen.toNat := by
    rw [← inputBytes_length]
    exact List.count_le_length
  rw [BitVec.toNat_ofNat]
  exact (Nat.mod_le _ _).trans_lt (hcount.trans_lt s.ilen.isLt)

/-- The state HTB.COUNT leaves. -/
def State.counted (s : State) (order : Bool) : State :=
  (countOrder order s.inputBytes).foldl
    (fun t sym => t.addLeaf sym (BitVec.ofNat 40 (s.inputBytes.count sym))) s.clearTable

theorem htbCountRule_eq (order : Bool) (s : State) :
    htbCountRule order s = .success (s.counted order) (word32 (s.counted order).nleaf) := rfl

theorem counted_builderOk (s : State) (order : Bool) : BuilderOk (s.counted order) :=
  foldl_addLeaf_builderOk (count_lt s) (countOrder_nodup order s.inputBytes) (clearTable_builderOk s) rfl
    fun _ _ _ hn => absurd hn List.not_mem_nil

/-! ### HTB.ASSIGN, HTB.BUILD and FW.ASSIGN -/

/-- A child comes before its parent, so that the last node of a tree is its root. -/
theorem Tree.root_eq {nodes : List Node} {root : NodeId} (h : Tree nodes root) :
    root = BitVec.ofNat 16 (nodes.length - 1) := by
  have hpos := h.root_lt
  have hsize := h.size
  have hlast : (BitVec.ofNat 16 (nodes.length - 1)).toNat = nodes.length - 1 := toNat_nodeId (by omega)
  obtain hroot | ⟨m, b, hchild⟩ := h.eq_root_or_child (v := BitVec.ofNat 16 (nodes.length - 1)) (by omega)
  · exact hroot.symm
  · have hlt := h.child_lt hchild
    have hm := hchild.parent_lt
    omega

theorem built_ne_load {p : Prop} (h : Phase.built = .load) : p := nomatch h

theorem built_ne_merge {p : Prop} (h : Phase.built = .merge) : p := nomatch h

theorem assignHuffman_builderOk {s : State} (h : BuilderOk s) (hbuilt : s.phase ≠ .built) (hn : s.nleaf ≠ 0)
    (hheap : s.heap.length = 1) : BuilderOk s.assignHuffman := by
  obtain ⟨k, hk⟩ := List.length_eq_one_iff.mp hheap
  obtain ⟨hlen, -⟩ := counts_of_not_built h.countsOk hbuilt
  have hnodes : s.nodes.length + 1 = 2 * s.nleaf := by omega
  have hroot : s.heapTop = BitVec.ofNat 16 (s.nodes.length - 1) :=
    (heapTop_of_singleton hk).trans (tree_of_builderOk h hk).root_eq
  exact ⟨h.leavesOk, ⟨built_ne_load, built_ne_merge, fun _ =>
    ⟨Nat.one_le_iff_ne_zero.mpr hn, assigned_total h.leavesOk, .inr ⟨hheap, hnodes, hroot, rfl⟩⟩⟩, h.2.2⟩

theorem assignFixed_builderOk {s : State} (h : BuilderOk s) (hload : s.phase = .load) (hn : s.nleaf ≠ 0) :
    BuilderOk s.assignFixed := by
  obtain ⟨hnodes, hheap, hroot, -⟩ := h.countsOk.1 hload
  exact ⟨h.leavesOk, ⟨built_ne_load, built_ne_merge, fun _ =>
    ⟨Nat.one_le_iff_ne_zero.mpr hn, assignFixed_total_toNat h.leavesOk, .inl ⟨hroot, hnodes, hheap⟩⟩⟩, h.2.2⟩

/-! ### Every command -/

/-- The invariant is about the table and its summary registers alone. -/
theorem BuilderOk.of_kept {s t : State} (h : BuilderOk s) (htable : Storage.table.Kept s t)
    (hsummary : Storage.summary.Kept s t) : BuilderOk t := by
  obtain ⟨hnleaf, hnodes, hheap⟩ := htable
  obtain ⟨hphase, hroot, htotal, htotbits⟩ := hsummary
  simpa only [BuilderOk, LeavesOk, CountsOk, ForestOk, State.leaves, State.heapTop, hnleaf, hnodes, hheap, hphase,
    hroot, htotal, htotbits] using h

theorem wr_keepsSummary (space : BitVec 4) (addr : BitVec 20) : .summary ∉ wrWrites space addr := by
  unfold wrWrites
  split <;> simp

theorem htbLoadRule_builderOk {s : State} (h : BuilderOk s) (sym : Byte) (weight : Word32) :
    (htbLoadRule sym weight s).Leaves BuilderOk := by
  by_cases hload : s.phase = .load
  · by_cases hdup : ∃ n ∈ s.leaves, n.sym = sym
    · rw [htbLoadRule_of_dup weight hload hdup]
      trivial
    · push Not at hdup
      rw [htbLoadRule_of_new weight hload hdup]
      refine addLeaf_builderOk h hload hdup ?_
      rw [BitVec.toNat_setWidth]
      exact (Nat.mod_le _ _).trans_lt weight.isLt
  · rw [htbLoadRule_of_closed sym weight hload]
    trivial

theorem htbStepRule_builderOk {s : State} (h : BuilderOk s) : (htbStepRule s).Leaves BuilderOk := by
  by_cases hrefused : s.phase = .built ∨ s.heap.length < 2
  · rw [htbStepRule_of_refused hrefused]
    trivial
  · push Not at hrefused
    obtain ⟨hbuilt, hheap⟩ := hrefused
    rw [htbStepRule_of_merge hbuilt hheap]
    exact mergeOnce_builderOk h hbuilt hheap

/-- The states HTB.ASSIGN and HTB.BUILD leave are assigned trees. -/
theorem assign_leaves {P : State → Prop} {s : State} (h : BuilderOk s)
    (hP : ∀ m, BuilderOk m → m.phase ≠ .built → m.nleaf ≠ 0 → m.heap.length = 1 → P m.assignHuffman) :
    (htbAssignRule s).Leaves P ∧ (htbBuildRule s).Leaves P := by
  unfold htbAssignRule htbBuildRule
  by_cases hbuilt : s.phase = .built
  · rw [if_pos hbuilt, if_pos hbuilt]
    exact ⟨trivial, trivial⟩
  rw [if_neg hbuilt, if_neg hbuilt]
  by_cases hn : s.nleaf = 0
  · rw [if_pos hn, if_pos hn]
    exact ⟨trivial, trivial⟩
  rw [if_neg hn, if_neg hn]
  constructor
  · by_cases hheap : s.heap.length = 1
    · rw [if_neg (not_not.mpr hheap)]
      exact hP s h hbuilt hn hheap
    · rw [if_pos hheap]
      trivial
  · obtain ⟨hm, hmbuilt, hmheap, -, hmn⟩ := mergeAll_builderOk s.heap.length h hbuilt
      (one_le_heap_length h.countsOk hbuilt hn) (Nat.le_succ _)
    exact hP _ hm hmbuilt (hmn ▸ hn) hmheap

theorem fwAssignRule_leaves {P : State → Prop} {s : State}
    (hP : s.phase = .load → s.nleaf ≠ 0 → P s.assignFixed) : (fwAssignRule s).Leaves P := by
  by_cases hload : s.phase = .load
  · by_cases hn : s.nleaf = 0
    · rw [fwAssignRule_of_empty hload hn]
      trivial
    · rw [fwAssignRule_of_leaves hload hn]
      exact hP hload hn
  · unfold fwAssignRule
    rw [if_pos hload]
    trivial

theorem ownRule_builderOk {i : Instr} (hi : i ≠ .reset) {s : State} (h : BuilderOk s) :
    (ownRule i s).Leaves BuilderOk := by
  have frame : .table ∉ writes i → .summary ∉ writes i → (ownRule i s).Leaves BuilderOk := fun htable hsummary =>
    (ownRule_keepsOutside i hi s).imp fun t ht => h.of_kept (ht.group _ htable) (ht.group _ hsummary)
  cases i with
  | htbClr => exact clearTable_builderOk s
  | htbLoad sym weight => exact htbLoadRule_builderOk h sym weight
  | htbCount order => exact counted_builderOk s order
  | htbStep => exact htbStepRule_builderOk h
  | htbAssign => exact (assign_leaves h fun _ => assignHuffman_builderOk).1
  | htbBuild => exact (assign_leaves h fun _ => assignHuffman_builderOk).2
  | fwAssign => exact fwAssignRule_leaves (assignFixed_builderOk h)
  | wr space addr v => exact frame (wr_keepsTable space addr) (wr_keepsSummary space addr)
  | reset => exact absurd rfl hi
  | _ => exact frame (by simp [writes]) (by simp [writes])

/-- Settles O57: a command adds leaves, merges two trees or assigns codes, and each keeps the forest. -/
theorem stepKeepsTheForest : Obligations.StepKeepsTheForest := fun _ _ hs h =>
  OfStorage.step (P := BuilderOk) (fun _ _ h => h) (fun _ _ => reset_builderOk)
    (fun _ _ hi hs => ownRule_builderOk hi hs) hs h

end Sys2Proof.Machine
end

/-! PROOF. In the codebook HTB.ASSIGN and HTB.BUILD leave no code begins another, and it is complete
(`42_huffman_tree_builder.md` R208), and every step keeps what CB_SRC says of the codebook (`10_state.md` R39 to R46).
-/

section
namespace Sys2Proof.Machine

/-! ### The codes of a tree's leaves -/

theorem walk_append (nodes : List Node) (n : NodeId) (p q : List Bool) :
    walk nodes n (p ++ q) = (walk nodes n p).bind fun m => walk nodes m q := by
  induction p generalizing n with
  | nil => rfl
  | cons b p ih =>
    rw [List.cons_append, walk, walk]
    cases nodes[n.toNat]? with
    | none => rfl
    | some nd =>
      dsimp only
      split
      · rfl
      · exact ih _

/-- A walk from a leaf stays there. -/
theorem walk_from_leaf {s : State} (h : LeavesOk s) {i v : NodeId} (hi : i.toNat < s.nleaf) {q : List Bool}
    (hq : walk s.nodes i q = some v) : q = [] := by
  cases q with
  | nil => rfl
  | cons b q =>
    obtain ⟨c, hc, -⟩ := walk_cons_iff.mp hq
    exact absurd (nleaf_le_of_child h hc) (by omega)

section
variable {s : State} {k : HeapKey} (h : BuilderOk s) (hbuilt : s.phase ≠ .built) (hheap : s.heap = [k])
include h hbuilt hheap

theorem codeOf_assigned {i : Nat} {n : Node} (hi : s.leaves[i]? = some n) :
    codeOf s.assignHuffman.cb n.sym = some (leafPath s.nodes s.nleaf k.id i) :=
  codeOf_of_entryFor (leafPath_length_le h hbuilt hheap hi) (assigned_entry h.leavesOk hheap hi)

theorem exists_leaf_of_codeOf_assigned {sym : Byte} {p : List Bool} (hp : codeOf s.assignHuffman.cb sym = some p) :
    ∃ i n, s.leaves[i]? = some n ∧ n.sym = sym ∧ p = leafPath s.nodes s.nleaf k.id i := by
  by_cases hleaf : ∃ n ∈ s.leaves, n.sym = sym
  · obtain ⟨n, hmem, rfl⟩ := hleaf
    obtain ⟨i, hi⟩ := List.getElem?_of_mem hmem
    exact ⟨i, n, hi, rfl, Option.some.inj (hp.symm.trans (codeOf_assigned h hbuilt hheap hi))⟩
  · push Not at hleaf
    exact nomatch hp.symm.trans (codeOf_of_cleared (cbEntry_assignCodes_of_no_leaf _ hleaf))

/-- A leaf's path is not the beginning of another leaf's. -/
theorem leafPath_free {i j : Nat} {m n : Node} (hi : s.leaves[i]? = some m) (hj : s.leaves[j]? = some n)
    (hfree : leafPath s.nodes s.nleaf k.id i <+: leafPath s.nodes s.nleaf k.id j) : i = j := by
  have hsize := nleaf_le h.leavesOk
  obtain ⟨hilt, -⟩ := nodes_getElem?_of_leaf hi
  obtain ⟨hjlt, -⟩ := nodes_getElem?_of_leaf hj
  by_cases hone : s.nleaf = 1
  · omega
  obtain ⟨p, hp, -, hpathp⟩ := leafPath_spec h hbuilt hheap hi
  obtain ⟨q, hq, -, hpathq⟩ := leafPath_spec h hbuilt hheap hj
  rw [hpathp, hpathq, if_neg hone, if_neg hone] at hfree
  obtain ⟨r, rfl⟩ := hfree
  rw [walk_append, hp, Option.bind_some] at hq
  have hid : (BitVec.ofNat 16 i).toNat = i := toNat_nodeId (by omega)
  obtain rfl := walk_from_leaf h.leavesOk (hid.trans_lt hilt) hq
  have hsame := congrArg BitVec.toNat (Option.some.inj hq)
  rwa [hid, toNat_nodeId (by omega)] at hsame

theorem assigned_prefixFree : PrefixFree s.assignHuffman.cb := by
  intro a b hab p hp q hq hpq
  obtain ⟨i, m, hi, rfl, rfl⟩ := exists_leaf_of_codeOf_assigned h hbuilt hheap hp
  obtain ⟨j, n, hj, rfl, rfl⟩ := exists_leaf_of_codeOf_assigned h hbuilt hheap hq
  obtain rfl := leafPath_free h hbuilt hheap hi hj hpq
  exact hab (congrArg Node.sym (Option.some.inj (hi.symm.trans hj)))

/-- With two or more leaves the root is no leaf. -/
theorem one_le_leafPath_length {i : Nat} {n : Node} (hi : s.leaves[i]? = some n) :
    1 ≤ (leafPath s.nodes s.nleaf k.id i).length := by
  obtain ⟨p, hp, -, hpath⟩ := leafPath_spec h hbuilt hheap hi
  rw [hpath]
  split_ifs with hone
  · exact le_rfl
  · refine List.length_pos_iff.mpr fun hnil => ?_
    obtain ⟨hlt, -⟩ := nodes_getElem?_of_leaf hi
    have hnodes := nodes_length_lt h
    obtain ⟨hlen, -⟩ := counts_of_not_built h.countsOk hbuilt
    rw [hheap, List.length_singleton] at hlen
    rw [hnil] at hp
    have hroot := congrArg BitVec.toNat ((tree_of_builderOk h hheap).root_eq.symm.trans (Option.some.inj hp))
    rw [toNat_nodeId (by omega), toNat_nodeId (by omega)] at hroot
    omega

theorem assigned_entry_len {n : Node} (hmem : n ∈ s.leaves) :
    1 ≤ (cbEntry s.assignHuffman.cb n.sym).len.toNat ∧ (cbEntry s.assignHuffman.cb n.sym).len.toNat ≤ 255 := by
  obtain ⟨i, hi⟩ := List.getElem?_of_mem hmem
  have hlen := leafPath_length_le h hbuilt hheap hi
  rw [assigned_entry h.leavesOk hheap hi, entryFor_len hlen]
  exact ⟨one_le_leafPath_length h hbuilt hheap hi, hlen⟩

theorem assigned_codeLengthsOk : CodeLengthsOk s.assignHuffman.cb := by
  refine codeLengthsOk_iff.mpr fun sym => ?_
  by_cases hleaf : ∃ n ∈ s.leaves, n.sym = sym
  · obtain ⟨n, hmem, rfl⟩ := hleaf
    obtain ⟨hlow, hhigh⟩ := assigned_entry_len h hbuilt hheap hmem
    exact ⟨hhigh, fun _ => hlow⟩
  · push Not at hleaf
    have hcleared : cbEntry s.assignHuffman.cb sym = CbEntry.cleared := cbEntry_assignCodes_of_no_leaf _ hleaf
    rw [hcleared]
    exact ⟨Nat.zero_le _, fun h => nomatch h⟩

end

/-! ### Completeness -/

/-- The share of the codes of 255 bits that lie under a node. -/
def share (nodes : List Node) (root : NodeId) (i : Nat) : Nat := 2 ^ (255 - depthOf nodes root i)

/-- An internal node's share is its children's together. -/
theorem Tree.share_children {nodes : List Node} {root : NodeId} (h : Tree nodes root)
    (hdepth : ∀ m b v, Child nodes m b v → depthOf nodes root v.toNat ≤ 255) {m : NodeId} {nd : Node}
    (hm : nodes[m.toNat]? = some nd) (hinner : nd.leaf = false) :
    share nodes root nd.left.toNat + share nodes root nd.right.toNat = share nodes root m.toNat := by
  have hl : Child nodes m false nd.left := ⟨nd, hm, hinner, rfl⟩
  have hr : Child nodes m true nd.right := ⟨nd, hm, hinner, rfl⟩
  have hbound := hdepth m false nd.left hl
  rw [h.depthOf_child hl] at hbound
  rw [share, share, share, h.depthOf_child hl, h.depthOf_child hr, ← two_mul, ← pow_succ']
  congr 1
  omega

theorem Tree.sum_share {nodes : List Node} {root : NodeId} (h : Tree nodes root)
    (hdepth : ∀ m b v, Child nodes m b v → depthOf nodes root v.toNat ≤ 255) :
    (nodes.zipIdx.map fun p => share nodes root p.2).sum =
      2 ^ 255 + (nodes.zipIdx.map fun p => if p.1.leaf then 0 else share nodes root p.2).sum := by
  have hid : ∀ p ∈ nodes.zipIdx, (BitVec.ofNat 16 p.2).toNat = p.2 := fun p hp =>
    toNat_nodeId ((List.snd_lt_of_mem_zipIdx hp).trans h.size)
  have hsum := h.sum_ids fun v => share nodes root v.toNat
  have hroot : share nodes root root.toNat = 2 ^ 255 := by rw [share, h.depthOf_root]
  rw [hroot, sum_childIds, ← sum_zipIdx_fst nodes 0] at hsum
  refine Eq.trans (congrArg List.sum (List.map_congr_left fun p hp => ?_))
    (hsum.trans (congrArg (2 ^ 255 + ·) (congrArg List.sum (List.map_congr_left fun p hp => ?_))))
  · rw [hid p hp]
  · split_ifs with hleaf
    · rfl
    · have hm : nodes[(BitVec.ofNat 16 p.2).toNat]? = some p.1 := by
        rw [hid p hp]
        exact List.mem_zipIdx_iff_getElem?.mp hp
      rw [h.share_children hdepth hm (by simpa using hleaf), hid p hp]

theorem sum_leaf_share {s : State} {k : HeapKey} (h : BuilderOk s) (hbuilt : s.phase ≠ .built) (hheap : s.heap = [k]) :
    (s.leaves.zipIdx.map fun p => share s.nodes k.id p.2).sum = 2 ^ 255 := by
  have htree := tree_of_builderOk h hheap
  have hdepth : ∀ m b v, Child s.nodes m b v → depthOf s.nodes k.id v.toNat ≤ 255 := fun m b v hc => by
    obtain ⟨p, hp⟩ := htree.exists_walk m hc.parent_lt
    have hwalk := walk_concat_iff.mpr ⟨m, hp, hc⟩
    have hlen := walk_root_length_le h hbuilt hheap hwalk
    have hsize := nleaf_le h.leavesOk
    rw [htree.depthOf_of_walk hwalk]
    omega
  have hsum := htree.sum_share hdepth
  obtain ⟨⟨-, hleaf, -, hinner⟩, -⟩ := h
  generalize share s.nodes k.id = f at hsum ⊢
  rw [← leaves_append_inner s, List.zipIdx_append, List.map_append, List.map_append, List.sum_append,
    List.sum_append] at hsum
  have hleaves : (s.leaves.zipIdx.map fun p => if p.1.leaf then 0 else f p.2).sum = 0 := by
    refine List.sum_eq_zero fun w hw => ?_
    obtain ⟨p, hp, rfl⟩ := List.mem_map.mp hw
    exact if_pos (hleaf p.1 (List.fst_mem_of_mem_zipIdx hp)).1
  have hnodes : ((s.nodes.drop s.nleaf).zipIdx (0 + s.leaves.length)).map
      (fun p => if p.1.leaf then 0 else f p.2) =
      ((s.nodes.drop s.nleaf).zipIdx (0 + s.leaves.length)).map fun p => f p.2 :=
    List.map_congr_left fun p hp => if_neg (by simp [(hinner p.1 (List.fst_mem_of_mem_zipIdx hp)).1])
  rw [hleaves, hnodes, Nat.zero_add (List.sum _)] at hsum
  exact Nat.add_right_cancel hsum

/-- With two or more leaves a code is as long as its leaf is deep, so that the leaves share all codes of 255 bits. -/
theorem assigned_complete {s : State} {k : HeapKey} (h : BuilderOk s) (hbuilt : s.phase ≠ .built)
    (hheap : s.heap = [k]) (htwo : 2 ≤ s.nleaf) :
    (s.leaves.map fun n => 2 ^ (255 - (cbEntry s.assignHuffman.cb n.sym).len.toNat)).sum = 2 ^ 255 := by
  rw [← sum_leaf_share h hbuilt hheap, ← sum_zipIdx_fst s.leaves 0]
  refine congrArg List.sum (List.map_congr_left fun p hp => ?_)
  have hi := List.mem_zipIdx_iff_getElem?.mp hp
  rw [assigned_entry h.leavesOk hheap hi, entryFor_len (leafPath_length_le h hbuilt hheap hi), leafPath,
    if_neg (by omega)]
  rfl

/-- Settles O38: HTB.BUILD assigns the codes of a merged table with the same leaves. -/
theorem builtCodeIsPrefixFreeAndComplete : Obligations.BuiltCodeIsPrefixFreeAndComplete := by
  intro s h hf hbuilt hn
  obtain ⟨m, d, hexec, hm, hopen, hlast, hleaves, hnleaf⟩ := exec_assigns h hf hbuilt hn (.inl rfl)
  obtain ⟨k, hk⟩ := List.length_eq_one_iff.mp hlast
  refine ⟨_, hexec, answer_err _ _ _, hleaves, assigned_prefixFree hm hopen hk, fun n hmem => ?_, fun htwo => ?_⟩
  · exact assigned_entry_len hm hopen hk (hleaves ▸ hmem)
  · rw [← hleaves]
    exact assigned_complete hm hopen hk (hnleaf ▸ htwo)

/-! ### What CB_SRC says -/

theorem CodebookOk.of_kept {s t : State} (h : CodebookOk s) (htable : Storage.table.Kept s t)
    (hsummary : Storage.summary.Kept s t) (hcb : Storage.cb.Kept s t) : CodebookOk t := by
  obtain ⟨hnleaf, hnodes, -⟩ := htable
  obtain ⟨hphase, hroot, -⟩ := hsummary
  obtain ⟨hentries, hsrc, hwidth⟩ := hcb
  simpa only [CodebookOk, State.leaves, hnleaf, hnodes, hphase, hroot, hentries, hsrc, hwidth] using h

/-- Before the codes are assigned the codebook is nobody's or the host's, whatever the table. -/
theorem CodebookOk.of_not_built {s t : State} (h : CodebookOk s) (hbuilt : s.phase ≠ .built)
    (hcb : Storage.cb.Kept s t) : CodebookOk t := by
  obtain ⟨hlens, hnone, hhuffman, hfixed, hother⟩ := h
  obtain ⟨hentries, hsrc, hwidth⟩ := hcb
  rw [CodebookOk, hentries, hsrc, hwidth]
  exact ⟨hlens, hnone, fun e => absurd (hhuffman e).1 hbuilt, fun e => absurd (hfixed e).1 hbuilt, hother⟩

theorem assignHuffman_codebookOk {s : State} (h : BuilderOk s) (hbuilt : s.phase ≠ .built) (hheap : s.heap.length = 1) :
    CodebookOk s.assignHuffman := by
  obtain ⟨k, hk⟩ := List.length_eq_one_iff.mp hheap
  have hroot : s.heapTop ≠ nilId := by
    intro hnil
    have hlt := (tree_of_builderOk h hk).root_lt
    have hnodes := nodes_length_lt h
    rw [← heapTop_of_singleton hk, hnil, show nilId.toNat = 65535 from rfl] at hlt
    omega
  exact ⟨assigned_codeLengthsOk h hbuilt hk, fun e : CbSrc.huffman = .none => (nomatch e),
    fun _ => ⟨rfl, hroot, assigned_prefixFree h hbuilt hk⟩, fun e : CbSrc.huffman = .fixed => (nomatch e), fun _ => rfl⟩

theorem assignFixed_codeLengthsOk {s : State} (h : LeavesOk s) : CodeLengthsOk s.assignFixed.cb := by
  refine codeLengthsOk_iff.mpr fun sym => ?_
  by_cases hleaf : ∃ n ∈ s.leaves, n.sym = sym
  · obtain ⟨n, hmem, rfl⟩ := hleaf
    obtain ⟨i, hi⟩ := List.getElem?_of_mem hmem
    have hlow := one_le_codeWidth s.nleaf
    have hhigh := codeWidth_nleaf_le h
    rw [assignFixed_entry h hi, entryFor_len (by rw [bitsOf_length]; omega), bitsOf_length]
    exact ⟨by omega, fun _ => hlow⟩
  · push Not at hleaf
    have hcleared : cbEntry s.assignFixed.cb sym = CbEntry.cleared := cbEntry_assignCodes_of_no_leaf _ hleaf
    rw [hcleared]
    exact ⟨Nat.zero_le _, fun h => nomatch h⟩

theorem assignFixed_codebookOk {s : State} (h : BuilderOk s) (hload : s.phase = .load) : CodebookOk s.assignFixed := by
  obtain ⟨-, -, hroot, -⟩ := h.countsOk.1 hload
  have hhigh := codeWidth_nleaf_le h.leavesOk
  have hwidth : (BitVec.ofNat 4 (codeWidth s.nleaf)).toNat = codeWidth s.nleaf := by
    rw [BitVec.toNat_ofNat]
    exact Nat.mod_eq_of_lt (by omega)
  exact ⟨assignFixed_codeLengthsOk h.leavesOk, fun e : CbSrc.fixed = .none => (nomatch e),
    fun e : CbSrc.fixed = .huffman => (nomatch e), fun _ => ⟨rfl, hroot, hwidth, rfl⟩, fun e => absurd rfl e⟩

/-- A word the host may write keeps the bounds of the entry's length. -/
theorem cbEntryWrite_len {e e' : CbEntry} {f : Nat} {v : Word32}
    (he : e.len.toNat ≤ 255 ∧ (e.valid = true → 1 ≤ e.len.toNat)) (h : cbEntryWrite e f v = some e') :
    e'.len.toNat ≤ 255 ∧ (e'.valid = true → 1 ≤ e'.len.toNat) := by
  cases f with
  | zero =>
    by_cases hbad : Word0Refused v
    · exact nomatch (cbEntryWrite_word0_refused e hbad).symm.trans h
    · obtain rfl := Option.some.inj ((cbEntryWrite_word0 e hbad).symm.trans h)
      simp only [Word0Refused, len_field_toNat, valid_bit_iff] at hbad ⊢
      omega
  | succ f =>
    obtain rfl := Option.some.inj h
    exact he

theorem Written.codebookOk {space : BitVec 4} {addr : BitVec 20} {s t : State} (ht : Written s space addr t)
    (h : CodebookOk s) : CodebookOk t := by
  cases ht with
  | cb he =>
    rename_i sym f v e
    refine ⟨codeLengthsOk_iff.mpr fun r => ?_, fun e : CbSrc.host = .none => (nomatch e),
      fun e : CbSrc.host = .huffman => (nomatch e), fun e : CbSrc.host = .fixed => (nomatch e), fun _ => rfl⟩
    have hlens := codeLengthsOk_iff.mp h.1
    by_cases hr : r = sym
    · subst hr
      rw [cbEntry_cbSet_same]
      exact cbEntryWrite_len (hlens r) he
    · rw [cbEntry_cbSet_of_ne _ _ hr]
      exact hlens r
  | _ => exact h

theorem counted_codebookOk (s : State) (order : Bool) : CodebookOk (s.counted order) := by
  have hkept : KeepsOutside [.table] s.clearTable (s.counted order) :=
    keepsOutside_foldl (fun s sym => keepsOutside_addLeaf s sym _) _ _
  exact CodebookOk.of_not_built (s := s.clearTable) reset_codebookOk (fun e : Phase.load = .built => nomatch e)
    (hkept.group .cb (by simp))

theorem ownRule_codebookOk {i : Instr} (hi : i ≠ .reset) {s : State} (hb : BuilderOk s) (h : CodebookOk s) :
    (ownRule i s).Leaves CodebookOk := by
  have hkeeps := ownRule_keepsOutside i hi s
  have frame : .table ∉ writes i → .summary ∉ writes i → .cb ∉ writes i → (ownRule i s).Leaves CodebookOk :=
    fun htable hsummary hcb => hkeeps.imp fun t ht =>
      h.of_kept (ht.group _ htable) (ht.group _ hsummary) (ht.group _ hcb)
  have frameOpen : s.phase ≠ .built → .cb ∉ writes i → (ownRule i s).Leaves CodebookOk := fun hbuilt hcb =>
    hkeeps.imp fun t ht => h.of_not_built hbuilt (ht.group _ hcb)
  cases i with
  | htbClr => exact reset_codebookOk
  | htbLoad sym weight =>
    by_cases hload : s.phase = .load
    · exact frameOpen (by simp [hload]) (by simp [writes])
    · rw [ownRule, htbLoadRule_of_closed sym weight hload]
      trivial
  | htbCount order => exact counted_codebookOk s order
  | htbStep =>
    by_cases hbuilt : s.phase = .built
    · rw [ownRule, htbStepRule_of_refused (.inl hbuilt)]
      trivial
    · exact frameOpen hbuilt (by simp [writes])
  | htbAssign => exact (assign_leaves hb fun _ hm hbuilt _ hheap => assignHuffman_codebookOk hm hbuilt hheap).1
  | htbBuild => exact (assign_leaves hb fun _ hm hbuilt _ hheap => assignHuffman_codebookOk hm hbuilt hheap).2
  | fwAssign => exact fwAssignRule_leaves fun hload _ => assignFixed_codebookOk hb hload
  | wr space addr v => exact (wrRule_written space addr v s).imp fun t ht => ht.codebookOk h
  | reset => exact absurd rfl hi
  | _ => exact frame (by simp [writes]) (by simp [writes]) (by simp [writes])

theorem CmdResult.Leaves.and {P Q : State → Prop} {r : CmdResult} (hP : r.Leaves P) (hQ : r.Leaves Q) :
    r.Leaves fun t => P t ∧ Q t := by
  cases r with
  | success t data => exact ⟨hP, hQ⟩
  | reject code => trivial
  | fault t code info => exact ⟨hP, hQ⟩

/-- Settles O58: the builder's invariants and the codebook's are kept together. -/
theorem stepKeepsTheCodebook : Obligations.StepKeepsTheCodebook := fun _ _ hb hs h =>
  (OfStorage.step (P := fun s => BuilderOk s ∧ CodebookOk s) (fun _ _ h => h)
    (fun _ _ => ⟨reset_builderOk, reset_codebookOk⟩)
    (fun _ _ hi hs => (ownRule_builderOk hi hs.1).and (ownRule_codebookOk hi hs.1 hs.2)) ⟨hb, hs⟩ h).2

end Sys2Proof.Machine
end

/-! PROOF. Every step keeps the invariants of the LZW state (`10_state.md` R47 to R51): the encoder adds a pair only
where the lookup found none, and the decoder's next code is known or the one it is about to add. -/

section
namespace Sys2Proof.Machine

/-! ### A dictionary that grows under the cap -/

theorem dictAdd_within {cap : Word32} {d : List DictEntry} (e : DictEntry) (h : 256 + d.length ≤ cap.toNat) :
    256 + (dictAdd cap d e).length ≤ cap.toNat := by
  by_cases hgrows : 256 + d.length < cap.toNat
  · rw [dictAdd_below e hgrows, List.length_append, List.length_singleton]
    omega
  · rwa [dictAdd_frozen e (not_lt.mp hgrows)]

theorem matchOk_some {d : List DictEntry} {k : Code} (h : k.toNat < 256 + d.length) : MatchOk d (some k) :=
  fun _ hc => Option.mem_some.mp hc ▸ h

theorem byteCode_lt (d : List DictEntry) (c : Byte) : (c.setWidth 16).toNat < 256 + d.length := by
  rw [toNat_byteCode]
  exact c.isLt.trans_le (Nat.le_add_right _ _)

/-! ### The encoder -/

/-- The match extended by a byte is a byte or a stored code. -/
theorem extendMatch_lt {d : List DictEntry} (hd : DictOk d) {ew : Option Code} {c : Byte} {k : Code}
    (h : extendMatch d ew c = some k) : k.toNat < 256 + d.length := by
  cases ew with
  | none =>
    obtain rfl := Option.some.inj h
    exact byteCode_lt d c
  | some w => exact (codeString_of_find hd h).1

theorem encodeByte_lzwOk {s : State} (h : LzwOk s) (ha : s.eActive = true) (c : Byte) : LzwOk (s.encodeByte c) := by
  obtain ⟨hlow, hhigh, hdict, hnodup, hmatch, hddict, hdprev, hecap, hdcap, -⟩ := h
  have hactive : ∀ {p : Prop}, s.eActive = false → p := fun hfalse => nomatch ha.symm.trans hfalse
  obtain ⟨k, hk⟩ | ⟨w, hw, hnew⟩ := extends_or_new s c
  · rw [encodeByte_of_extends hk]
    exact ⟨hlow, hhigh, hdict, hnodup, matchOk_some (extendMatch_lt hdict hk), hddict, hdprev, hecap, hdcap, hactive⟩
  · have hwlt := hmatch w hw
    rw [encodeByte_of_new hw hnew]
    exact ⟨hlow, hhigh, dictOk_dictAdd hhigh hdict hwlt, nodup_dictAdd _ hnodup hnew,
      matchOk_some (byteCode_lt _ c), hddict, hdprev, fun ha => dictAdd_within _ (hecap ha), hdcap, hactive⟩

theorem encodeByte_eActive (s : State) (c : Byte) : (s.encodeByte c).eActive = s.eActive := (encodeByte_keeps s c).2.1

theorem foldl_encodeByte_lzwOk (input : List Byte) {s : State} (h : LzwOk s) (ha : s.eActive = true) :
    LzwOk (input.foldl State.encodeByte s) := by
  induction input generalizing s with
  | nil => exact h
  | cons c input ih => exact ih (encodeByte_lzwOk h ha c) ((encodeByte_eActive s c).trans ha)

theorem encoderInit_lzwOk {s : State} (h : LzwOk s) : LzwOk s.encoderInit := by
  obtain ⟨hlow, hhigh, -, -, -, hddict, hdprev, -, hdcap, -⟩ := h
  exact ⟨hlow, hhigh, dictOk_nil, List.nodup_nil, matchOk_none [], hddict, hdprev, fun _ => hlow, hdcap, fun _ => rfl⟩

theorem encoderFlush_eq (s : State) : s.encoderFlush.edict = s.edict ∧ s.encoderFlush.ew = none ∧
    s.encoderFlush.eActive = false := by
  cases hw : s.ew with
  | none =>
    rw [encoderFlush_of_none hw]
    exact ⟨rfl, hw, rfl⟩
  | some e =>
    rw [encoderFlush_of_some hw]
    exact ⟨rfl, rfl, rfl⟩

theorem encoderFlush_lzwOk {s : State} (h : LzwOk s) : LzwOk s.encoderFlush := by
  obtain ⟨hlow, hhigh, hdict, hnodup, -, hddict, hdprev, -, hdcap, -⟩ := h
  obtain ⟨hedict, hew, hactive⟩ := encoderFlush_eq s
  rw [encoderFlush_frame] at hedict hew hactive ⊢
  refine ⟨hlow, hhigh, ?_, ?_, ?_, hddict, hdprev, fun ha => absurd (ha.symm.trans hactive) Bool.noConfusion, hdcap,
    fun _ => hew⟩
  · exact hedict ▸ hdict
  · exact hedict ▸ hnodup
  · exact hew ▸ matchOk_none _

/-- What LZW.EBYTE leaves. -/
theorem lzwEbyteRule_leaves {P : State → Prop} (c : Byte) {s : State}
    (hP : s.eActive = true → P (s.encodeByte c)) : (lzwEbyteRule c s).Leaves P := by
  unfold lzwEbyteRule
  cases ha : s.eActive with
  | false => exact trivial
  | true =>
    rw [if_neg (by simp)]
    cases s.mustEmit c with
    | none => exact hP ha
    | some e => exact leaves_ite trivial (hP ha)

/-- What LZW.EFLUSH leaves. -/
theorem lzwEflushRule_leaves {P : State → Prop} {s : State} (hP : P s.encoderFlush) : (lzwEflushRule s).Leaves P := by
  refine leaves_ite trivial ?_
  split
  · exact hP
  · exact leaves_ite trivial hP

/-! ### The decoder -/

/-- The states the decoding of a code can leave. -/
inductive Decoded (k : Code) (s : State) : State → Prop
  | bad : Decoded k s s
  | first {out : List Byte} (hprev : s.dprev = none) (hk : k.toNat < 256)
      (hroom : (s.obuf ++ out).length ≤ s.cfg.obufBytes) :
      Decoded k s { s with obuf := s.obuf ++ out, dprev := some k }
  | entry {p : Code} {out : List Byte} (hprev : s.dprev = some p) (hout : s.decoderEntry p k = some out)
      (hroom : (s.obuf ++ out).length ≤ s.cfg.obufBytes) :
      Decoded k s { s with obuf := s.obuf ++ out, ddict := dictAdd s.lzwCap s.ddict ⟨p, firstByte out⟩,
                           dprev := some k }

theorem emitEntry_leaves {P : State → Prop} {s : State} {entry : List Byte} {d : List DictEntry} {k : Code}
    (hP : (s.obuf ++ entry).length ≤ s.cfg.obufBytes →
      P { s with obuf := s.obuf ++ entry, ddict := d, dprev := some k }) : (emitEntry s entry d k).Leaves P := by
  obtain ⟨-, hfull⟩ | ⟨hroom, hfits⟩ := emitEntry_cases s entry d k
  · rw [hfull]
    trivial
  · rw [hfits]
    exact hP (List.length_append.trans_le hroom)

theorem decodeCode_decoded (k : Code) (s : State) : (decodeCode k s).Leaves (Decoded k s) := by
  cases hp : s.dprev with
  | none =>
    by_cases hk : k.toNat < 256
    · rw [decodeCode_first hp hk]
      exact emitEntry_leaves (.first hp hk)
    · rw [decodeCode_first_bad hp (not_lt.mp hk)]
      exact .bad
  | some p =>
    cases he : s.decoderEntry p k with
    | none =>
      rw [decodeCode_bad hp he]
      exact .bad
    | some entry =>
      rw [decodeCode_entry hp he]
      exact emitEntry_leaves (.entry hp he)

/-- A code with a sequence is known, or known once the pair is added. -/
theorem lt_of_decoderEntry {s : State} {p k : Code} {out : List Byte} (h : s.decoderEntry p k = some out)
    (e : DictEntry) : k.toNat < 256 + (dictAdd s.lzwCap s.ddict e).length := by
  by_cases hknown : k.toNat < 256 + s.ddict.length
  · exact hknown.trans_le (Nat.add_le_add_left (length_le_dictAdd _ _ _) _)
  · by_cases hbad : 256 + s.ddict.length < k.toNat ∨
        256 + s.ddict.length = k.toNat ∧ s.lzwCap.toNat ≤ 256 + s.ddict.length
    · exact nomatch (decoderEntry_of_bad p hbad).symm.trans h
    · rw [dictAdd_below e (by omega), List.length_append, List.length_singleton]
      omega

theorem Decoded.lzwOk {k : Code} {s t : State} (ht : Decoded k s t) (h : LzwOk s) : LzwOk t := by
  obtain ⟨hlow, hhigh, hedict, hnodup, hew, hdict, hprev, hecap, hdcap, hidle⟩ := h
  cases ht with
  | bad => exact ⟨hlow, hhigh, hedict, hnodup, hew, hdict, hprev, hecap, hdcap, hidle⟩
  | first _ hk _ =>
    exact ⟨hlow, hhigh, hedict, hnodup, hew, hdict, matchOk_some (Nat.lt_add_right _ hk), hecap, hdcap, hidle⟩
  | entry hp hout _ =>
    exact ⟨hlow, hhigh, hedict, hnodup, hew, dictOk_dictAdd hhigh hdict (hprev _ hp),
      matchOk_some (lt_of_decoderEntry hout _), hecap, fun ha => dictAdd_within _ (hdcap ha), hidle⟩

/-- What the decoding of each code and the end of the session keep, LZW.DEC leaves. -/
theorem decodeCodes_leaves {P : State → Prop} (hcode : ∀ k s t, P s → Decoded k s t → P t)
    (hend : ∀ s, P s → P { s with dActive := false }) (ks : List Code) (j : Nat) {s : State} (hs : P s) :
    (decodeCodes ks j s).Leaves P := by
  induction ks generalizing j s with
  | nil => exact hend s hs
  | cons k ks ih =>
    have hk := (decodeCode_decoded k s).imp fun t => hcode k s t hs
    unfold decodeCodes
    cases hr : decodeCode k s with
    | success t d => exact ih (j + 1) (by rwa [hr] at hk)
    | reject code => trivial
    | fault t code info => rwa [hr] at hk

theorem decoderInit_lzwOk {s : State} (h : LzwOk s) : LzwOk s.decoderInit := by
  obtain ⟨hlow, hhigh, hedict, hnodup, hew, -, -, hecap, -, hidle⟩ := h
  exact ⟨hlow, hhigh, hedict, hnodup, hew, dictOk_nil, matchOk_none [], hecap, fun _ => hlow, hidle⟩

theorem dEnd_lzwOk {s : State} (h : LzwOk s) : LzwOk { s with dActive := false } := by
  obtain ⟨hlow, hhigh, hedict, hnodup, hew, hdict, hprev, hecap, -, hidle⟩ := h
  exact ⟨hlow, hhigh, hedict, hnodup, hew, hdict, hprev, hecap, fun ha => absurd ha Bool.false_ne_true, hidle⟩

/-! ### Every command -/

theorem Written.lzwOk {space : BitVec 4} {addr : BitVec 20} {s t : State} (ht : Written s space addr t)
    (h : LzwOk s) : LzwOk t := by
  cases ht with
  | lzwCap he hd hlow hhigh =>
    obtain ⟨-, -, hedict, hnodup, hew, hdict, hprev, -, -, hidle⟩ := h
    exact ⟨hlow, hhigh, hedict, hnodup, hew, hdict, hprev, fun ha => absurd (he.symm.trans ha) Bool.false_ne_true,
      fun ha => absurd (hd.symm.trans ha) Bool.false_ne_true, hidle⟩
  | _ => exact h

theorem LzwOk.of_kept {s t : State} (h : LzwOk s) (hedict : Storage.edict.Kept s t) (hddict : Storage.ddict.Kept s t)
    (hcap : Storage.lzwCap.Kept s t) : LzwOk t := by
  obtain ⟨he, hew, hea⟩ := hedict
  obtain ⟨hd, hdprev, hda⟩ := hddict
  have hcap : t.lzwCap = s.lzwCap := hcap
  simpa only [LzwOk, State.enext, State.dnext, he, hew, hea, hd, hdprev, hda, hcap] using h

theorem ownRule_lzwOk {i : Instr} (hi : i ≠ .reset) {s : State} (h : LzwOk s) : (ownRule i s).Leaves LzwOk := by
  have frame : .edict ∉ writes i → .ddict ∉ writes i → .lzwCap ∉ writes i → (ownRule i s).Leaves LzwOk :=
    fun hedict hddict hcap => (ownRule_keepsOutside i hi s).imp fun t ht =>
      h.of_kept (ht.group _ hedict) (ht.group _ hddict) (ht.group _ hcap)
  cases i with
  | lzwEinit => exact encoderInit_lzwOk h
  | lzwEbyte c => exact lzwEbyteRule_leaves c fun ha => encodeByte_lzwOk h ha c
  | lzwEflush => exact lzwEflushRule_leaves (encoderFlush_lzwOk h)
  | lzwEnc => exact encoderFlush_lzwOk (foldl_encodeByte_lzwOk _ (encoderInit_lzwOk h) rfl)
  | lzwDinit => exact decoderInit_lzwOk h
  | lzwDcode k => exact leaves_ite trivial ((decodeCode_decoded k s).imp fun t ht => ht.lzwOk h)
  | lzwDec => exact decodeCodes_leaves (fun _ _ _ hs ht => ht.lzwOk hs) (fun _ => dEnd_lzwOk) _ 0 (decoderInit_lzwOk h)
  | wr space addr v => exact (wrRule_written space addr v s).imp fun t ht => ht.lzwOk h
  | reset => exact absurd rfl hi
  | _ => exact frame (by simp [writes]) (by simp [writes]) (by simp [writes])

/-- Settles O59: a dictionary grows by a pair with a known code, the encoder's by one it does not have. -/
theorem stepKeepsTheDictionaries : Obligations.StepKeepsTheDictionaries := fun _ _ hs h =>
  OfStorage.step (P := LzwOk) (fun _ _ h => h) (fun _ _ => reset_lzwOk) (fun _ _ hi hs => ownRule_lzwOk hi hs) hs h

end Sys2Proof.Machine
end

/-! PROOF. The sequences of the dictionaries' codes (`10_state.md` R53): no two codes stand for one sequence exactly
when no pair is stored twice, which the encoder's rule keeps, and the decoder's on any beginning of an encoder's
codes. -/

section
namespace Sys2Proof.Machine

/-! ### Sequences and pairs -/

/-- Every beginning of a code's sequence is the sequence of a code not above it (`10_state.md` R53 (d)). -/
theorem exists_code_of_beginning {d : List DictEntry} (hd : DictOk d) (k : Code) {p : List Byte}
    (hk : k.toNat < 256 + d.length) (hp : p ≠ []) (hpk : p <+: codeString d k) :
    ∃ j : Code, j.toNat ≤ k.toNat ∧ codeString d j = p := by
  induction hn : k.toNat using Nat.strong_induction_on generalizing k with
  | _ n ih =>
    subst hn
    by_cases hbyte : k.toNat < 256
    · rw [codeString_byte d hbyte] at hpk
      obtain rfl | ⟨q, rfl, hnil⟩ := List.prefix_cons_iff.mp hpk
      · exact absurd rfl hp
      · exact ⟨k, le_rfl, (codeString_byte d hbyte).trans (by rw [List.prefix_nil.mp hnil])⟩
    · obtain ⟨e, -, hstring, hlt⟩ := exists_entry hd hk (not_lt.mp hbyte)
      rw [hstring] at hpk
      obtain hall | hshort := List.prefix_concat_iff.mp hpk
      · exact ⟨k, le_rfl, hstring.trans hall.symm⟩
      · obtain ⟨j, hj, hjp⟩ := ih _ hlt _ (hlt.trans hk) hshort rfl
        exact ⟨j, hj.trans hlt.le, hjp⟩

theorem nodup_of_sequencesDistinct {d : List DictEntry} (hd : DictOk d) (h : SequencesDistinct d) : d.Nodup := by
  refine List.nodup_iff_injective_getElem.mpr fun i j hij => ?_
  have hi := List.getElem?_eq_getElem i.isLt
  have hj := List.getElem?_eq_getElem j.isLt
  have hicode := toNat_entryCode hd hi
  have hjcode := toNat_entryCode hd hj
  by_contra hne
  refine h (BitVec.ofNat 16 (256 + i)) (BitVec.ofNat 16 (256 + j)) (by omega) (by omega) (fun hcode => ?_) ?_
  · have hnat := congrArg BitVec.toNat hcode
    exact hne (Fin.ext (by omega))
  · have hij : d[i.1] = d[j.1] := hij
    rw [codeString_entry hd hi, codeString_entry hd hj, hij]

theorem sequencesDistinct_iff {d : List DictEntry} (hd : DictOk d) : SequencesDistinct d ↔ d.Nodup :=
  ⟨nodup_of_sequencesDistinct hd, sequencesDistinct_of_nodup hd⟩

theorem sequencesDistinct_nil : SequencesDistinct [] := sequencesDistinct_of_nodup dictOk_nil List.nodup_nil

/-! ### Dictionaries only grow (`10_state.md` R53 (b), (c)) -/

theorem prefix_dictAdd (cap : Word32) (d : List DictEntry) (e : DictEntry) : d <+: dictAdd cap d e := by
  unfold dictAdd
  split
  · exact List.prefix_append _ _
  · exact List.prefix_rfl

theorem edict_encodeByte (s : State) (c : Byte) :
    (s.encodeByte c).edict = s.edict ∨ ∃ e, (s.encodeByte c).edict = dictAdd s.lzwCap s.edict e := by
  obtain ⟨k, hk⟩ | ⟨w, hw, hnew⟩ := extends_or_new s c
  · rw [encodeByte_of_extends hk]
    exact .inl rfl
  · rw [encodeByte_of_new hw hnew]
    exact .inr ⟨_, rfl⟩

theorem edict_grows {i : Instr} {s t : State} (hreset : i ≠ .reset) (hinit : i ≠ .lzwEinit) (henc : i ≠ .lzwEnc)
    (h : exec i s = .next t) : s.edict <+: t.edict := by
  refine OfStorage.exec (P := fun t => s.edict <+: t.edict) (fun _ _ h => h) hreset List.prefix_rfl ?_ h
  have frame : .edict ∉ writes i → (ownRule i s).Leaves fun t => s.edict <+: t.edict := fun hw =>
    (ownRule_keepsOutside i hreset s).imp fun t ht => by
      obtain ⟨hedict, -⟩ : Storage.edict.Kept s t := ht.group _ hw
      rw [hedict]
  cases i with
  | lzwEbyte c =>
    refine lzwEbyteRule_leaves c fun _ => ?_
    obtain hsame | ⟨e, hadded⟩ := edict_encodeByte s c
    · rw [hsame]
    · rw [hadded]
      exact prefix_dictAdd _ _ e
  | lzwEflush => exact lzwEflushRule_leaves (by rw [(encoderFlush_eq s).1])
  | lzwEinit => exact absurd rfl hinit
  | lzwEnc => exact absurd rfl henc
  | reset => exact absurd rfl hreset
  | wr space addr v =>
    refine (wrRule_written space addr v s).imp fun t ht => ?_
    cases ht <;> exact List.prefix_rfl
  | _ => exact frame (by simp [writes])

theorem Decoded.ddict_grows {k : Code} {s t : State} (ht : Decoded k s t) : s.ddict <+: t.ddict := by
  cases ht with
  | entry hp hout _ => exact prefix_dictAdd _ _ _
  | _ => exact List.prefix_rfl

/-- A command that does not decode leaves the decoder's dictionary, or empties it. -/
theorem ddict_kept {i : Instr} {s t : State} (hdcode : ∀ k, i ≠ .lzwDcode k) (hdec : i ≠ .lzwDec)
    (h : exec i s = .next t) : t.ddict = s.ddict ∨ ((i = .reset ∨ i = .lzwDinit) ∧ t.ddict = []) := by
  have frame : i ≠ .reset → .ddict ∉ writes i → t.ddict = s.ddict := fun hi hw => by
    obtain ⟨hddict, -⟩ : Storage.ddict.Kept s t := (exec_keepsOutside hi h).group _ hw
    exact hddict
  cases i with
  | reset =>
    obtain rfl := Host.Outcome.next.inj h
    exact .inr ⟨.inl rfl, rfl⟩
  | lzwDinit =>
    refine OfStorage.exec (i := .lzwDinit) (P := fun t => t.ddict = s.ddict ∨ (_ ∧ t.ddict = []))
      (fun _ _ h => h) (by simp) (.inl rfl) ?_ h
    exact Or.inr ⟨.inr rfl, rfl⟩
  | lzwDcode k => exact absurd rfl (hdcode k)
  | lzwDec => exact absurd rfl hdec
  | wr space addr v =>
    refine .inl (exec_wr_leaves (P := fun t => t.ddict = s.ddict) (fun _ _ h => h) rfl (fun t ht => ?_) h)
    cases ht <;> rfl
  | _ => exact .inl (frame (by simp) (by simp [writes]))

theorem ddict_grows {i : Instr} {s t : State} (hreset : i ≠ .reset) (hinit : i ≠ .lzwDinit) (hdec : i ≠ .lzwDec)
    (h : exec i s = .next t) : s.ddict <+: t.ddict := by
  by_cases hdcode : ∃ k, i = .lzwDcode k
  · obtain ⟨k, rfl⟩ := hdcode
    refine OfStorage.exec (P := fun t => s.ddict <+: t.ddict) (fun _ _ h => h) hreset List.prefix_rfl ?_ h
    exact leaves_ite trivial ((decodeCode_decoded k s).imp fun t ht => ht.ddict_grows)
  · push Not at hdcode
    obtain hsame | ⟨hnew, -⟩ := ddict_kept hdcode hdec h
    · rw [hsame]
    · exact absurd hnew (by simp [hreset, hinit])

/-- NEXT of each dictionary is within the cap. -/
def EncoderWithin (s : State) : Prop := s.enext ≤ s.lzwCap.toNat

def DecoderWithin (s : State) : Prop := s.dnext ≤ s.lzwCap.toNat

theorem encodeByte_encoderWithin {s : State} (h : EncoderWithin s) (c : Byte) : EncoderWithin (s.encodeByte c) := by
  obtain ⟨k, hk⟩ | ⟨w, hw, hnew⟩ := extends_or_new s c
  · rw [encodeByte_of_extends hk]
    exact h
  · rw [encodeByte_of_new hw hnew]
    exact dictAdd_within _ h

theorem encoderFlush_encoderWithin {s : State} (h : EncoderWithin s) : EncoderWithin s.encoderFlush := by
  have hedict := (encoderFlush_eq s).1
  rw [encoderFlush_frame] at hedict ⊢
  unfold EncoderWithin State.enext at h ⊢
  rwa [hedict]

theorem foldl_encodeByte_encoderWithin (input : List Byte) {s : State} (h : EncoderWithin s) :
    EncoderWithin (input.foldl State.encodeByte s) := by
  induction input generalizing s with
  | nil => exact h
  | cons c input ih => exact ih (encodeByte_encoderWithin h c)

theorem Written.within {space : BitVec 4} {addr : BitVec 20} {v : Word32} {s t : State} (ht : Written s space addr t)
    (hi : ∀ u, Instr.wr space addr v ≠ .wr 0 0x09 u) :
    (EncoderWithin s → EncoderWithin t) ∧ (DecoderWithin s → DecoderWithin t) := by
  cases ht with
  | lzwCap => exact absurd rfl (hi v)
  | _ => exact ⟨id, id⟩

theorem exec_encoderWithin {i : Instr} {s t : State} (hcap : 256 ≤ s.lzwCap.toNat) (hi : ∀ v, i ≠ .wr 0 0x09 v)
    (h : exec i s = .next t) (hs : EncoderWithin s) : EncoderWithin t := by
  refine OfStorage.exec_or_reset (P := EncoderWithin) (fun _ _ h => h) hs (by decide : 256 ≤ 65536) (fun hreset => ?_) h
  have frame : .edict ∉ writes i → .lzwCap ∉ writes i → (ownRule i s).Leaves EncoderWithin := fun hedict hw =>
    (ownRule_keepsOutside i hreset s).imp fun t ht => by
      obtain ⟨he, -⟩ : Storage.edict.Kept s t := ht.group _ hedict
      have hc : t.lzwCap = s.lzwCap := ht.group .lzwCap hw
      rwa [EncoderWithin, State.enext, he, hc]
  cases i with
  | lzwEinit => exact hcap
  | lzwEbyte c => exact lzwEbyteRule_leaves c fun _ => encodeByte_encoderWithin hs c
  | lzwEflush => exact lzwEflushRule_leaves (encoderFlush_encoderWithin hs)
  | lzwEnc =>
    exact encoderFlush_encoderWithin (foldl_encodeByte_encoderWithin s.inputBytes (s := s.encoderInit) hcap)
  | wr space addr v => exact (wrRule_written space addr v s).imp fun t ht => (ht.within hi).1 hs
  | reset => exact absurd rfl hreset
  | _ => exact frame (by simp [writes]) (by simp [writes])

theorem Decoded.decoderWithin {k : Code} {s t : State} (h : DecoderWithin s) (ht : Decoded k s t) :
    DecoderWithin t := by
  cases ht with
  | entry hp hout _ => exact dictAdd_within _ h
  | _ => exact h

theorem exec_decoderWithin {i : Instr} {s t : State} (hcap : 256 ≤ s.lzwCap.toNat) (hi : ∀ v, i ≠ .wr 0 0x09 v)
    (h : exec i s = .next t) (hs : DecoderWithin s) : DecoderWithin t := by
  refine OfStorage.exec_or_reset (P := DecoderWithin) (fun _ _ h => h) hs (by decide : 256 ≤ 65536) (fun hreset => ?_) h
  have frame : .ddict ∉ writes i → .lzwCap ∉ writes i → (ownRule i s).Leaves DecoderWithin := fun hddict hw =>
    (ownRule_keepsOutside i hreset s).imp fun t ht => by
      obtain ⟨hd, -⟩ : Storage.ddict.Kept s t := ht.group _ hddict
      have hc : t.lzwCap = s.lzwCap := ht.group .lzwCap hw
      rwa [DecoderWithin, State.dnext, hd, hc]
  cases i with
  | lzwDinit => exact hcap
  | lzwDcode k => exact leaves_ite trivial ((decodeCode_decoded k s).imp fun t => Decoded.decoderWithin hs)
  | lzwDec =>
    exact decodeCodes_leaves (fun _ _ _ => Decoded.decoderWithin) (fun _ h => h) _ 0 (s := s.decoderInit) hcap
  | wr space addr v => exact (wrRule_written space addr v s).imp fun t ht => (ht.within hi).2 hs
  | reset => exact absurd rfl hreset
  | _ => exact frame (by simp [writes]) (by simp [writes])

/-! ### The decoder on a beginning of an encoder's codes -/

/-- The decoder's dictionary is a beginning of the encoder's. -/
theorem Awaits.sequencesDistinct {s : State} {c : Byte} {d : List DictEntry} (h : Awaits s c d) (hnodup : d.Nodup) :
    SequencesDistinct s.ddict := by
  cases h with
  | first hprev hdict =>
    rw [hdict]
    exact sequencesDistinct_nil
  | behind hprev hlt hdict =>
    exact sequencesDistinct_of_nodup hdict (hnodup.sublist (prefix_dictAdd _ _ _).sublist)

/-- One more code of the run leaves the dictionary the decoder awaits. -/
theorem decodeCodes_cons_leaves {P : State → Prop} {s : State} {c : Byte} {d : List DictEntry} {k : Code}
    {l : List Byte} (h : Awaits s c d) (hok : RunOk s.lzwCap d k) (hfirst : codeString d k = c :: l)
    (ks : List Code) (j : Nat) (hrest : (decodeCodes ks (j + 1)
      { s with obuf := s.obuf ++ codeString d k, ddict := d, dprev := some k }).Leaves P) :
    (decodeCodes (k :: ks) j s).Leaves P := by
  rw [decodeCodes, decodeCode_of_awaits h hok hfirst]
  obtain ⟨-, hfull⟩ | ⟨-, hfits⟩ := emitEntry_cases s (codeString d k) d k
  · rw [hfull]
    trivial
  · rwa [hfits]

theorem decodeCodes_beginning_distinct (input : List Byte) {ks : List Code} (j : Nat) {s : State} {c : Byte}
    {d : List DictEntry} {w : Code} {l : List Byte} (h : Awaits s c d) (hok : RunOk s.lzwCap d w)
    (hfirst : codeString d w = c :: l) (hks : ks <+: (encodeRun s.lzwCap d w input).1) :
    (decodeCodes ks j s).Leaves fun t => SequencesDistinct t.ddict := by
  have hdistinct : SequencesDistinct d := sequencesDistinct_of_nodup hok.dictOk hok.nodup
  induction input generalizing ks j s c d w l with
  | nil =>
    obtain rfl | ⟨ks, rfl, hnil⟩ := List.prefix_cons_iff.mp hks
    · exact h.sequencesDistinct hok.nodup
    · obtain rfl := List.prefix_nil.mp hnil
      exact decodeCodes_cons_leaves h hok hfirst [] j hdistinct
  | cons a input ih =>
    cases hk : dictFind d w a with
    | some k =>
      rw [encodeRun_of_found input hk] at hks
      have hstring := (codeString_of_find hok.dictOk hk).2
      exact ih j h (hok.found hk) (hstring.trans (by rw [hfirst, List.cons_append])) hks hdistinct
    | none =>
      rw [encodeRun_of_new input hk] at hks
      obtain rfl | ⟨ks, rfl, hrest⟩ := List.prefix_cons_iff.mp hks
      · exact h.sequencesDistinct hok.nodup
      · have hadded := hok.added hk
        refine decodeCodes_cons_leaves h hok hfirst ks j ?_
        exact ih (j + 1) (s := { s with obuf := s.obuf ++ codeString d w, ddict := d, dprev := some w })
          (.behind rfl hok.match_lt hok.dictOk) hadded (codeString_byteCode _ a) hrest
          (sequencesDistinct_of_nodup hadded.dictOk hadded.nodup)

theorem map_toNat_injective : Function.Injective (List.map (BitVec.toNat : Code → Nat)) :=
  List.map_injective_iff.mpr fun _ _ => BitVec.eq_of_toNat_eq

theorem prefix_of_map_toNat {ks l : List Code} (h : ks.map BitVec.toNat <+: l.map BitVec.toNat) : ks <+: l := by
  have htake := List.prefix_iff_eq_take.mp h
  rw [← List.map_take, List.length_map] at htake
  rw [map_toNat_injective htake]
  exact List.take_prefix _ _

/-- Decoding any beginning of the codes of x stores no pair twice. -/
theorem decodeCodes_textbook_distinct {s : State} (hcap : s.lzwCap.toNat ≤ 65536) {x : List Byte} {ks : List Code}
    (hks : ks.map BitVec.toNat <+: textbookEncode s.lzwCap.toNat [] [] x) (j : Nat) :
    (decodeCodes ks j s.decoderInit).Leaves fun t => SequencesDistinct t.ddict := by
  rw [← encodeAll_textbook x hcap] at hks
  have hks := prefix_of_map_toNat hks
  cases x with
  | nil =>
    obtain rfl := List.prefix_nil.mp hks
    exact sequencesDistinct_nil
  | cons c input =>
    exact decodeCodes_beginning_distinct input j (s := s.decoderInit) (.first rfl rfl) (RunOk.start hcap c)
      (codeString_byteCode [] c) hks

/-- A command that answers SUCCESS behind the fault gate found FAULT = 0. -/
theorem unfaulted_of_success {i : Instr} {s t : State} (hg : gated i = true) (h : exec i s = .next t)
    (herr : t.err = some 0) : s.faulted = false := by
  by_contra hf
  rw [Bool.not_eq_false] at hf
  obtain rfl := Host.Outcome.next.inj ((exec_of_shut_gate hg hf).symm.trans h)
  exact absurd herr (by rw [State.refuse, answer_err]; decide)

theorem dcodes_textbook_distinct {s t : State} (hcap : s.lzwCap.toNat ≤ 65536) {x : List Byte} {codes : List Code}
    (hcodes : codes.map BitVec.toNat <+: textbookEncode s.lzwCap.toNat [] [] x)
    (h : succeedAll (.lzwDinit :: codes.map .lzwDcode) s = some t) : SequencesDistinct t.ddict := by
  obtain ⟨u, hu, herr, hrest⟩ := exec_of_succeedAll_cons h
  have hf := unfaulted_of_success rfl hu herr
  obtain rfl := Host.Outcome.next.inj ((exec_lzwDinit hf).symm.trans hu)
  obtain ⟨hloop, -⟩ := decodeCodes_of_succeedAll codes [] 0 (s := s.decoderInit.answer 0 0) hf rfl hrest
  have hleaves := decodeCodes_textbook_distinct (s := s.answer 0 0) hcap hcodes 0
  rw [List.append_nil] at hloop
  have hinit : (s.answer 0 0).decoderInit = s.decoderInit.answer 0 0 := rfl
  rw [hinit, hloop] at hleaves
  exact hleaves

/-- The decoding of one code adds no pair or one, and keeps the sequences distinct when the pair is new. -/
theorem Decoded.distinct_iff {k : Code} {s t : State} (ht : Decoded k s t) (h : LzwOk s)
    (hdistinct : SequencesDistinct s.ddict) :
    t.ddict = s.ddict ∨ ∃ e, t.ddict = s.ddict ++ [e] ∧ (SequencesDistinct t.ddict ↔ e ∉ s.ddict) := by
  obtain ⟨-, hhigh, -, -, -, hdict, hprev, -⟩ := h
  cases ht with
  | bad => exact .inl rfl
  | first => exact .inl rfl
  | @entry p out hp hout _ =>
    by_cases hgrows : 256 + s.ddict.length < s.lzwCap.toNat
    · refine .inr ⟨⟨p, firstByte out⟩, dictAdd_below _ hgrows, ?_⟩
      have hadded := dictOk_append hdict (hgrows.trans_le hhigh) (e := ⟨p, firstByte out⟩) (hprev p hp)
      have hnodup := nodup_of_sequencesDistinct hdict hdistinct
      rw [show dictAdd s.lzwCap s.ddict _ = _ from dictAdd_below _ hgrows, sequencesDistinct_iff hadded,
        ← List.concat_eq_append, List.nodup_concat]
      exact and_iff_left hnodup
    · exact .inl (dictAdd_frozen _ (not_lt.mp hgrows))

/-- Settles O60: pairs stored once make sequences distinct, dictionaries grow by `dictAdd` alone, and the decoder
follows an encoder's dictionary one code behind. -/
theorem dictionarySequencesStayDistinct : Obligations.DictionarySequencesStayDistinct := by
  refine ⟨fun s hs => ?invariant, fun s t i hs h => ⟨fun hr hi he => edict_grows hr hi he h,
      fun hr hi he => ddict_grows hr hi he h, fun hi => ⟨exec_encoderWithin hs.1 hi h, exec_decoderWithin hs.1 hi h⟩⟩,
    fun s t i hs hdec hdcode h => ?kept, fun s t x codes _ hhigh hcodes h => dcodes_textbook_distinct hhigh hcodes h,
    fun s t x hs hdistinct hcodes h => ?dec, fun s t k hs hdistinct h => ?dcode⟩
  case invariant =>
    obtain ⟨-, -, hedict, hnodup, -, hddict, -⟩ := hs
    refine ⟨sequencesDistinct_of_nodup hedict hnodup, ?_⟩
    simp only [List.forall_mem_cons]
    exact ⟨fun k _ => exists_code_of_beginning hedict k, fun k _ => exists_code_of_beginning hddict k,
      fun _ h => absurd h List.not_mem_nil⟩
  case kept =>
    obtain hsame | ⟨-, hnil⟩ := ddict_kept hdcode hdec h
    · rwa [hsame]
    · rw [hnil]
      exact sequencesDistinct_nil
  case dec =>
    exact OfStorage.exec (i := .lzwDec) (P := fun t => SequencesDistinct t.ddict) (fun _ _ h => h) (by simp) hdistinct
      (decodeCodes_textbook_distinct hs.2.1 hcodes 0) h
  case dcode =>
    refine OfStorage.exec (i := .lzwDcode k)
      (P := fun t => t.ddict = s.ddict ∨ ∃ e, t.ddict = s.ddict ++ [e] ∧ (SequencesDistinct t.ddict ↔ e ∉ s.ddict))
      (fun _ _ h => h) (by simp) (.inl rfl) ?_ h
    exact leaves_ite trivial ((decodeCode_decoded k s).imp fun t ht => ht.distinct_iff hs hdistinct)

/-- Settles O48: the codes of x are the run of the encoder on x, which decodes to x. -/
theorem decoderInvertsTheTextbookCodes : Obligations.DecoderInvertsTheTextbookCodes := by
  intro s x hf _ hcap hcodes hroom
  rw [← encodeAll_textbook x hcap] at hcodes
  obtain ⟨p, hdecodes⟩ := decodeCodes_encodeAll x hcap hroom
  refine ⟨(encodeAll s.lzwCap x).2, p, ?_⟩
  rw [exec_lzwDec hf, map_toNat_injective hcodes, hdecodes]
  rfl

end Sys2Proof.Machine
end

/-! PROOF. Every step keeps the buffers inside the capacities (`00_scope.md` R6, `10_state.md` R28 to R31): what a
command appends or stores it checks first, and LZW.ENC, which does not, has no more codes than input bytes. -/

section
namespace Sys2Proof.Machine

/-! ### Single changes -/

section
variable {s : State} (h : BuffersFit s)
include h

theorem BuffersFit.withBits {bits : List Bool} (hbits : bits.length ≤ s.cfg.bitcap) :
    BuffersFit { s with bits := bits } := by
  obtain ⟨hcfg, hiwf, hicells, hcwf, hccells, hilen, hclen, hobuf, -⟩ := h
  exact ⟨hcfg, hiwf, hicells, hcwf, hccells, hilen, hclen, hobuf, hbits⟩

theorem BuffersFit.withObuf {out : List Byte} (hout : out.length ≤ s.cfg.obufBytes) :
    BuffersFit { s with obuf := out } := by
  obtain ⟨hcfg, hiwf, hicells, hcwf, hccells, hilen, hclen, -, hbits⟩ := h
  exact ⟨hcfg, hiwf, hicells, hcwf, hccells, hilen, hclen, hout, hbits⟩

theorem BuffersFit.withClen {n : Word32} (hn : n.toNat ≤ s.cfg.cbufWords) : BuffersFit { s with clen := n } := by
  obtain ⟨hcfg, hiwf, hicells, hcwf, hccells, hilen, -, hobuf, hbits⟩ := h
  exact ⟨hcfg, hiwf, hicells, hcwf, hccells, hilen, hn, hobuf, hbits⟩

theorem BuffersFit.ibufWrite {a : Nat} (ha : a < s.cfg.ibufBytes) (v : Byte) : BuffersFit (s.ibufWrite a v) := by
  obtain ⟨hcfg, hiwf, hicells, hcwf, hccells, hilen, hclen, hobuf, hbits⟩ := h
  refine ⟨hcfg, insert_wf a v hiwf, fun c hc => ?_, hcwf, hccells, hilen, hclen, hobuf, hbits⟩
  obtain rfl | hold := mem_insert_address hc
  · exact ha
  · exact hicells c hold

theorem BuffersFit.cbufWrite {a : Nat} (ha : a < s.cfg.cbufWords) (v : Code) : BuffersFit (s.cbufWrite a v) := by
  obtain ⟨hcfg, hiwf, hicells, hcwf, hccells, hilen, hclen, hobuf, hbits⟩ := h
  refine ⟨hcfg, hiwf, hicells, insert_wf a v hcwf, fun c hc => ?_, hilen, hclen, hobuf, hbits⟩
  obtain rfl | hold := mem_insert_address hc
  · exact ha
  · exact hccells c hold

theorem BuffersFit.emitCode (hroom : s.clen.toNat < s.cfg.cbufWords) (e : Code) : BuffersFit (s.emitCode e) := by
  have hclen : (s.clen + 1).toNat ≤ s.cfg.cbufWords := by
    have hone : (s.clen + 1).toNat ≤ s.clen.toNat + 1 := by
      rw [BitVec.toNat_add]
      exact Nat.mod_le _ _
    omega
  exact (h.cbufWrite hroom e).withClen hclen

/-- Everything but the buffers, their lengths and the parameters is free. -/
theorem BuffersFit.of_kept {t : State} (hcfg : t.cfg = s.cfg) (hibuf : Storage.ibuf.Kept s t)
    (hcbuf : Storage.cbuf.Kept s t) (hobuf : Storage.obuf.Kept s t) (hbits : Storage.bits.Kept s t) :
    BuffersFit t := by
  obtain ⟨hicells, hilen⟩ := hibuf
  obtain ⟨hccells, hclen⟩ := hcbuf
  have hobuf : t.obuf = s.obuf := hobuf
  have hbits : t.bits = s.bits := hbits
  simpa only [BuffersFit, hcfg, hicells, hilen, hccells, hclen, hobuf, hbits] using h

/-! ### The bit stream and the output -/

theorem appendBits_buffersFit (add : List Bool) : (appendBits add s).Leaves BuffersFit := by
  obtain ⟨-, hfull⟩ | ⟨hroom, hfits⟩ := appendBits_cases add s
  · rw [hfull]
    trivial
  · rw [hfits]
    exact h.withBits (List.length_append.trans_le hroom)

theorem unpackBits_buffersFit (n off : Nat) : (unpackBits n off s).Leaves BuffersFit := by
  by_cases hn : s.cfg.bitcap < n
  · rw [unpackBits_of_overflow hn]
    trivial
  · unfold unpackBits
    rw [if_neg hn]
    exact leaves_ite trivial (h.withBits ((fromBytes_length _ _).trans_le (not_lt.mp hn)))

end

/-- The output of a walk over a stream is within the capacity. -/
def DecodeEnd.Within (cap : Nat) : DecodeEnd → Prop
  | .done out => out.length ≤ cap
  | .noCode out _ => out.length ≤ cap
  | .full => True

theorem storeDecoded_buffersFit {s : State} (h : BuffersFit s) {e : DecodeEnd} (he : e.Within s.cfg.obufBytes) :
    (storeDecoded s e).Leaves BuffersFit := by
  cases e with
  | done out => exact h.withObuf he
  | noCode out start => exact h.withObuf he
  | full => trivial

theorem cutEnd_within (cap stop : Nat) (parts : List (List Bool × Byte)) (rest : List Bool) :
    (cutEnd cap [] stop parts rest).Within cap := by
  unfold cutEnd
  split_ifs with hfull hrest
  · trivial
  all_goals
    have hlen : (parts.map Prod.snd).length ≤ cap := by simpa using hfull
    exact hlen

theorem bssDecLoop_within (cb : Vector CbEntry 256) (cap : Nat) (stream : List Bool) :
    (bssDecLoop cb cap stream 0 [] 0 []).Within cap := by
  obtain ⟨parts, rest, hcut⟩ := exists_cutAtMatches (cb := cb) stream (noCodeBegins_nil cb)
  rw [List.nil_append] at hcut
  rw [bssDecLoop_eq_cutEnd hcut 0 (Nat.zero_le cap)]
  exact cutEnd_within cap _ parts rest

theorem fwDecLoop_within (leaves : List Node) (bits : List Bool) (b : Nat) {cap : Nat} (count pos : Nat)
    {out : List Byte} (hout : out.length ≤ cap) : (fwDecLoop leaves bits b cap count pos out).Within cap := by
  induction count generalizing pos out with
  | zero => exact hout
  | succ count ih =>
    unfold fwDecLoop
    split
    · exact hout
    · split
      · trivial
      · refine ih _ ?_
        rw [List.length_append, List.length_singleton]
        omega

theorem fwDecRule_buffersFit {s : State} (h : BuffersFit s) : (fwDecRule s).Leaves BuffersFit := by
  have hformat : (badFormat s).Leaves BuffersFit := h.withObuf (Nat.zero_le _)
  exact leaves_ite trivial (leaves_ite hformat (leaves_ite hformat (leaves_ite hformat
    (storeDecoded_buffersFit h (fwDecLoop_within _ _ _ _ _ (Nat.zero_le _))))))

theorem fwEncRule_buffersFit {s : State} (h : BuffersFit s) : (fwEncRule s).Leaves BuffersFit := by
  by_cases hsrc : s.cbSrc = .fixed
  · by_cases hfits : (framed (encodeBytes s.cb s.inputBytes)).length ≤ s.cfg.bitcap
    · rw [fwEncRule_of_fits hsrc hfits]
      exact h.withBits hfits
    · rw [fwEncRule_of_overflow hsrc (not_le.mp hfits)]
      trivial
  · exact (congrArg (CmdResult.Leaves BuffersFit) (if_pos hsrc)).mpr trivial

theorem bssPackRule_buffersFit {s : State} (h : BuffersFit s) (hdr : Bool) :
    (bssPackRule hdr s).Leaves BuffersFit := by
  by_cases hfits : (packed hdr s.bits).length ≤ s.cfg.obufBytes
  · rw [bssPackRule_of_fits hfits]
    exact h.withObuf hfits
  · rw [bssPackRule_of_overflow (not_le.mp hfits)]
    trivial

/-! ### The encoder and the decoder -/

/-- A byte that emits the match needs room in CBUF. -/
theorem encodeByte_buffersFit {s : State} (h : BuffersFit s) (c : Byte)
    (hroom : ∀ w, s.ew = some w → ⟨w, c⟩ ∉ s.edict → s.clen.toNat < s.cfg.cbufWords) :
    BuffersFit (s.encodeByte c) := by
  obtain ⟨k, hk⟩ | ⟨w, hw, hnew⟩ := extends_or_new s c
  · rw [encodeByte_of_extends hk]
    exact h
  · rw [encodeByte_of_new hw hnew]
    exact h.emitCode (hroom w hw hnew) w

theorem encoderFlush_buffersFit {s : State} (h : BuffersFit s)
    (hroom : ∀ e, s.ew = some e → s.clen.toNat < s.cfg.cbufWords) : BuffersFit s.encoderFlush := by
  cases hw : s.ew with
  | none =>
    rw [encoderFlush_of_none hw]
    exact h
  | some e =>
    rw [encoderFlush_of_some hw]
    exact h.emitCode (hroom e hw) e

theorem lzwEbyteRule_buffersFit {s : State} (h : BuffersFit s) (c : Byte) :
    (lzwEbyteRule c s).Leaves BuffersFit := by
  have hclen : s.clen.toNat ≤ s.cfg.cbufWords := by
    obtain ⟨-, -, -, -, -, -, hclen, -⟩ := h
    exact hclen
  by_cases hfull : s.clen.toNat = s.cfg.cbufWords ∧ ∃ w, s.ew = some w ∧ ⟨w, c⟩ ∉ s.edict
  · obtain ⟨hfull, w, hw, hnew⟩ := hfull
    cases ha : s.eActive with
    | false => exact (congrArg (CmdResult.Leaves BuffersFit) (if_pos ha)).mpr trivial
    | true =>
      rw [lzwEbyteRule_of_full ha hw hnew hfull]
      trivial
  · refine lzwEbyteRule_leaves c fun _ => encodeByte_buffersFit h c fun w hw hnew => ?_
    exact lt_of_le_of_ne hclen fun heq => hfull ⟨heq, w, hw, hnew⟩

theorem lzwEflushRule_buffersFit {s : State} (h : BuffersFit s) : (lzwEflushRule s).Leaves BuffersFit := by
  have hclen : s.clen.toNat ≤ s.cfg.cbufWords := by
    obtain ⟨-, -, -, -, -, -, hclen, -⟩ := h
    exact hclen
  by_cases hfull : s.clen.toNat = s.cfg.cbufWords ∧ ∃ e, s.ew = some e
  · obtain ⟨hfull, e, hw⟩ := hfull
    cases ha : s.eActive with
    | false => exact (congrArg (CmdResult.Leaves BuffersFit) (if_pos ha)).mpr trivial
    | true =>
      rw [lzwEflushRule_of_full ha hw hfull]
      trivial
  · refine lzwEflushRule_leaves (encoderFlush_buffersFit h fun e hw => ?_)
    exact lt_of_le_of_ne hclen fun heq => hfull ⟨heq, e, hw⟩

/-- With room for every code due each code is stored inside CBUF. -/
theorem clen_lt_of_due {s : State} (hdue : s.codesDue ≤ s.cfg.cbufWords) {w : Code} (hw : s.ew = some w) :
    s.clen.toNat < s.cfg.cbufWords := by
  rw [codesDue_of_match hw] at hdue
  omega

theorem foldl_encodeByte_buffersFit (input : List Byte) {s : State} (h : BuffersFit s)
    (hdue : s.codesDue + input.length ≤ s.cfg.cbufWords) :
    BuffersFit (input.foldl State.encodeByte s).encoderFlush := by
  have hcap : s.cfg.cbufWords < 2 ^ 32 := by
    obtain ⟨⟨-, -, -, -, -, -, -, -, hwords, -⟩, -⟩ := h
    omega
  induction input generalizing s with
  | nil => exact encoderFlush_buffersFit h fun e hw => clen_lt_of_due hdue hw
  | cons c input ih =>
    rw [List.length_cons] at hdue
    obtain ⟨-, -, hcfg⟩ := encodeByte_keeps s c
    have hnext := codesDue_encodeByte s c (by omega)
    exact ih (encodeByte_buffersFit h c fun w hw _ => clen_lt_of_due (by omega) hw) (by rw [hcfg]; omega)
      (by rwa [hcfg])

/-- LZW.ENC emits at most one code per input byte, and CBUF has room for as many as IBUF has bytes. -/
theorem encoded_buffersFit {s : State} (h : BuffersFit s) : BuffersFit s.encoded := by
  refine foldl_encodeByte_buffersFit s.inputBytes (s := s.encoderInit) (h.withClen (Nat.zero_le _)) ?_
  obtain ⟨⟨-, -, -, -, -, -, -, -, -, hbytes, -⟩, -, -, -, -, hilen, -⟩ := h
  have hdue : s.encoderInit.codesDue = 0 := rfl
  rw [hdue, inputBytes_length, Nat.zero_add]
  exact hilen.trans hbytes

theorem Decoded.buffersFit {k : Code} {s t : State} (h : BuffersFit s) (ht : Decoded k s t) : BuffersFit t := by
  cases ht with
  | bad => exact h
  | first _ _ hroom => exact h.withObuf hroom
  | entry _ _ hroom => exact h.withObuf hroom

/-! ### Every command -/

theorem Written.buffersFit {space : BitVec 4} {addr : BitVec 20} {s t : State} (ht : Written s space addr t)
    (h : BuffersFit s) : BuffersFit t := by
  cases ht with
  | ilen hv =>
    obtain ⟨hcfg, hiwf, hicells, hcwf, hccells, -, hclen, hobuf, hbits⟩ := h
    exact ⟨hcfg, hiwf, hicells, hcwf, hccells, hv, hclen, hobuf, hbits⟩
  | clen hv => exact h.withClen hv
  | ibuf v ha => exact h.ibufWrite ha v
  | cbuf v ha => exact h.cbufWrite ha v
  | lzwCap => exact h
  | cb => exact h

theorem afterReset_buffersFit {s : State} (h : BuffersFit s) : BuffersFit s.afterReset :=
  ⟨h.1, reset_memory_wf.1, List.forall_mem_nil _, reset_memory_wf.2, List.forall_mem_nil _, Nat.zero_le _,
    Nat.zero_le _, Nat.zero_le _, Nat.zero_le _⟩

theorem ownRule_buffersFit {i : Instr} (hi : i ≠ .reset) {s : State} (h : BuffersFit s) :
    (ownRule i s).Leaves BuffersFit := by
  have frame : .ibuf ∉ writes i → .cbuf ∉ writes i → .obuf ∉ writes i → .bits ∉ writes i →
      (ownRule i s).Leaves BuffersFit := fun hibuf hcbuf hobuf hbits =>
    (ownRule_keepsOutside i hi s).imp fun t ht => h.of_kept ht.cfg (ht.group _ hibuf) (ht.group _ hcbuf)
      (ht.group _ hobuf) (ht.group _ hbits)
  cases i with
  | wr space addr v => exact (wrRule_written space addr v s).imp fun t ht => ht.buffersFit h
  | bssClr => exact h.withBits (Nat.zero_le _)
  | bssAppend n bits => exact leaves_ite trivial (appendBits_buffersFit h _)
  | bssAppsym sym =>
    simp only [ownRule, bssAppsymRule]
    split
    · exact h
    · exact appendBits_buffersFit h _
  | bssEnc => exact appendBits_buffersFit h _
  | bssDec => exact storeDecoded_buffersFit h (bssDecLoop_within _ _ _)
  | bssPack hdr => exact bssPackRule_buffersFit h hdr
  | bssUnpack hdr nbits =>
    exact leaves_ite (leaves_ite trivial (unpackBits_buffersFit h _ _)) (unpackBits_buffersFit h _ _)
  | lzwEinit => exact h.withClen (Nat.zero_le _)
  | lzwEbyte c => exact lzwEbyteRule_buffersFit h c
  | lzwEflush => exact lzwEflushRule_buffersFit h
  | lzwEnc => exact encoded_buffersFit h
  | lzwDinit => exact h.withObuf (Nat.zero_le _)
  | lzwDcode k => exact leaves_ite trivial ((decodeCode_decoded k s).imp fun t => Decoded.buffersFit h)
  | lzwDec =>
    exact decodeCodes_leaves (fun _ _ _ => Decoded.buffersFit) (fun _ h => h) _ 0 (s := s.decoderInit)
      (h.withObuf (Nat.zero_le _))
  | fwEnc => exact fwEncRule_buffersFit h
  | fwDec => exact fwDecRule_buffersFit h
  | reset => exact absurd rfl hi
  | _ => exact frame (by simp [writes]) (by simp [writes]) (by simp [writes]) (by simp [writes])

/-- Settles O55: each command checks the room it needs, or LZW.ENC has it by the parameters' constraints. -/
theorem stepKeepsBuffersInside : Obligations.StepKeepsBuffersInside := fun _ _ hs h =>
  OfStorage.step (P := BuffersFit) (fun _ _ h => h) (fun _ => afterReset_buffersFit)
    (fun _ _ hi hs => ownRule_buffersFit hi hs) hs h

end Sys2Proof.Machine
end

/-! PROOF. The round trips of the two symbol coders: the fixed-width stream is cut back into the leaves' numbers
(`44_fixed_width.md` R259), and the whole Huffman flow gives the input back in exactly TOTBITS bits
(`70_reset_and_hazards.md` R306, `41_bitstream_serializer.md` R159). -/

section
namespace Sys2Proof.Machine

/-! ### The fixed-width coder -/

theorem encodeBytes_cons (cb : Vector CbEntry 256) (c : Byte) (input : List Byte) :
    encodeBytes cb (c :: input) = (codeOf cb c).getD [] ++ encodeBytes cb input := rfl

/-- Every byte of the input numbers a leaf in b bits. -/
def NumbersLeaves (cb : Vector CbEntry 256) (leaves : List Node) (b : Nat) (input : List Byte) : Prop :=
  ∀ c ∈ input, ∃ i n, leaves[i]? = some n ∧ n.sym = c ∧ i < 2 ^ b ∧ codeOf cb c = some (bitsOf b i)

section
variable {cb : Vector CbEntry 256} {leaves : List Node} {b : Nat}

theorem encodeBytes_length_of_numbers {input : List Byte} (h : NumbersLeaves cb leaves b input) :
    (encodeBytes cb input).length = input.length * b := by
  induction input with
  | nil => exact (Nat.zero_mul b).symm
  | cons c input ih =>
    obtain ⟨⟨i, n, -, -, -, hcode⟩, hrest⟩ := List.forall_mem_cons.mp h
    rw [encodeBytes_cons, List.length_append, ih hrest, hcode, Option.getD_some, bitsOf_length, List.length_cons,
      Nat.succ_mul, Nat.add_comm]

theorem groupFrom_append {before group after : List Bool} {pos : Nat} (hpos : before.length = pos)
    (hgroup : group.length = b) : groupFrom (before ++ (group ++ after)) b pos = bitsVal group := by
  rw [groupFrom, List.drop_left' hpos, List.take_left' hgroup]

/-- The groups of the encoded bytes number the bytes' leaves, wherever the data stands in the stream. -/
theorem groupsDecode_encodeBytes {input : List Byte} (h : NumbersLeaves cb leaves b input) (before after : List Bool)
    {pos : Nat} (hpos : before.length = pos) :
    GroupsDecode leaves (before ++ (encodeBytes cb input ++ after)) b pos input := by
  induction input generalizing before pos with
  | nil => exact fun j hj => absurd hj (Nat.not_lt_zero j)
  | cons c input ih =>
    obtain ⟨⟨i, n, hi, rfl, hlt, hcode⟩, hrest⟩ := List.forall_mem_cons.mp h
    rw [encodeBytes_cons, hcode, Option.getD_some, List.append_assoc]
    refine groupsDecode_cons_iff.mpr ⟨?_, ?_⟩
    · rw [groupFrom_append hpos (bitsOf_length b i), bitsVal_bitsOf, Nat.mod_eq_of_lt hlt, hi]
      rfl
    · rw [← List.append_assoc before]
      exact ih hrest _ (by rw [List.length_append, bitsOf_length, hpos])

end

/-- A FIXED codebook numbers the leaf of every symbol that has a code. -/
theorem numbersLeaves_of_fixed {s : State} (h : LeavesOk s) (hcb : s.cb = s.assignFixed.cb) {input : List Byte}
    (hcodes : ∀ c ∈ input, codeOf s.cb c ≠ none) : NumbersLeaves s.cb s.leaves (codeWidth s.nleaf) input := by
  intro c hc
  obtain ⟨p, hp⟩ := Option.ne_none_iff_exists'.mp (hcodes c hc)
  obtain ⟨i, n, hi, hsym, rfl⟩ := exists_leaf_of_codeOf_assignFixed h (hcb ▸ hp)
  exact ⟨i, n, hi, hsym, leaf_lt_two_pow_codeWidth hi, hp⟩

theorem framed_take_three (data : List Bool) : (framed data).take 3 = bitsOf 3 (padFor data.length) := by
  rw [framed, List.append_assoc]
  exact List.take_left' (bitsOf_length 3 _)

theorem bitsVal_pad (data : List Bool) : bitsVal ((framed data).take 3) = padFor data.length := by
  obtain ⟨hlt, -⟩ := padFor_eq_iff.mp (rfl : padFor data.length = padFor data.length)
  rw [framed_take_three, bitsVal_bitsOf]
  exact Nat.mod_eq_of_lt hlt

/-- FW.DEC of a framed stream of leaves' numbers answers their symbols. -/
theorem fwDecRule_framed {s : State} {input : List Byte} (hsrc : s.cbSrc = .fixed) (hb : 0 < s.fwWidth.toNat)
    (hnumbers : NumbersLeaves s.cb s.leaves s.fwWidth.toNat input) (hbits : s.bits = framed (encodeBytes s.cb input))
    (hroom : input.length ≤ s.cfg.obufBytes) :
    fwDecRule s = .success { s with obuf := input } (word32 input.length) := by
  have hlen : s.bits.length = 3 + (encodeBytes s.cb input).length + padFor (encodeBytes s.cb input).length := by
    rw [hbits, framed_length]
  have hpad : bitsVal (s.bits.take 3) = padFor (encodeBytes s.cb input).length := by rw [hbits, bitsVal_pad]
  have hdata : s.bits.length - 3 - bitsVal (s.bits.take 3) = input.length * s.fwWidth.toNat := by
    rw [← encodeBytes_length_of_numbers hnumbers]
    omega
  have hgroups : GroupsDecode s.leaves s.bits s.fwWidth.toNat 3 input := by
    rw [hbits, framed, List.append_assoc]
    exact groupsDecode_encodeBytes hnumbers _ _ (bitsOf_length 3 _)
  rw [fwDecRule_of_framed hsrc (by omega) (by omega) (by rw [hdata, Nat.mul_mod_left]), hdata,
    Nat.mul_div_cancel _ hb]
  have hloop := fwDecLoop_of_groupsDecode 0 (out := []) hgroups (by simpa using hroom)
  rw [Nat.add_zero] at hloop
  rw [hloop]
  rfl

theorem exec_fwEnc_of_fits {s : State} (hf : s.faulted = false) (hsrc : s.cbSrc = .fixed)
    (hfits : (framed (encodeBytes s.cb s.inputBytes)).length ≤ s.cfg.bitcap) :
    exec .fwEnc s = .next ({ s with bits := framed (encodeBytes s.cb s.inputBytes) }.answer 0
      (word32 (framed (encodeBytes s.cb s.inputBytes)).length)) :=
  runGated_of_success hf (fwEncRule_of_fits hsrc hfits)

theorem exec_fwDec_framed {s : State} {input : List Byte} (hf : s.faulted = false) (hsrc : s.cbSrc = .fixed)
    (hb : 0 < s.fwWidth.toNat) (hnumbers : NumbersLeaves s.cb s.leaves s.fwWidth.toNat input)
    (hbits : s.bits = framed (encodeBytes s.cb input)) (hroom : input.length ≤ s.cfg.obufBytes) :
    exec .fwDec s = .next ({ s with obuf := input }.answer 0 (word32 input.length)) :=
  runGated_of_success hf (fwDecRule_framed hsrc hb hnumbers hbits hroom)

/-- Settles O53: FW.ENC writes the numbers of the input's leaves, and FW.DEC reads them back. -/
theorem fixedWidthRoundTrips : Obligations.FixedWidthRoundTrips := by
  intro s hleaves hcodebook hf hsrc hcodes hfits hroom
  obtain ⟨-, -, -, hfixed, -⟩ := hcodebook
  obtain ⟨-, -, hwidth, hcb⟩ := hfixed hsrc
  have hnumbers := numbersLeaves_of_fixed hleaves hcb hcodes
  rw [← hwidth] at hnumbers
  have hb : 0 < s.fwWidth.toNat := hwidth ▸ one_le_codeWidth s.nleaf
  have henc := exec_fwEnc_of_fits hf hsrc hfits
  generalize word32 (framed (encodeBytes s.cb s.inputBytes)).length = d at henc
  have hdec := exec_fwDec_framed (s := { s with bits := framed (encodeBytes s.cb s.inputBytes) }.answer 0 d) hf hsrc hb
    hnumbers rfl ((inputBytes_length s).trans_le hroom)
  exact ⟨_, (succeedAll_cons henc (answer_err _ _ _)).trans (succeedAll_cons hdec (answer_err _ _ _)),
    inputBytes_length s, rfl⟩

/-! ### The Huffman flow -/

/-- The leaf table HTB.COUNT loads. -/
theorem counted_leaves (s : State) (order : Bool) :
    (s.counted order).leaves = (countOrder order s.inputBytes).map fun sym =>
      leafNode sym (BitVec.ofNat 40 (s.inputBytes.count sym)) := by
  rw [State.counted, foldl_addLeaf]
  simp [State.leaves, State.clearTable]

theorem counted_load (s : State) (order : Bool) :
    (s.counted order).phase = .load ∧ (s.counted order).faulted = s.faulted := by
  rw [State.counted, foldl_addLeaf]
  exact ⟨rfl, rfl⟩

/-- Every input byte has a leaf. -/
theorem exists_counted_leaf {s : State} (order : Bool) {c : Byte} (hc : c ∈ s.inputBytes) :
    ∃ n ∈ (s.counted order).leaves, n.sym = c := by
  rw [counted_leaves]
  exact ⟨_, List.mem_map_of_mem (mem_countOrder.mpr (List.count_pos_iff.mpr hc)), rfl⟩

/-- Summed over the input, or over the symbols that occur weighted with their counts. -/
theorem sum_countOrder (order : Bool) (input : List Byte) (f : Byte → Nat) :
    ((countOrder order input).map fun sym => input.count sym * f sym).sum = (input.map f).sum := by
  have hsyms : (countOrder order input).toFinset = input.toFinset := by
    ext c
    rw [List.mem_toFinset, List.mem_toFinset, mem_countOrder, List.count_pos_iff]
  rw [← List.sum_toFinset _ (countOrder_nodup order input), hsyms, Finset.sum_list_map_count]
  rfl

/-- The codes of the input are as long together as the counted leaves' weights times their code lengths. -/
theorem encodeBytes_length_counted (s : State) (order : Bool) {cb : Vector CbEntry 256}
    (hlen : ∀ n ∈ (s.counted order).leaves, ((codeOf cb n.sym).getD []).length = (cbEntry cb n.sym).len.toNat) :
    (encodeBytes cb s.inputBytes).length = leafTotbits (s.counted order).leaves cb := by
  have hcodes : (encodeBytes cb s.inputBytes).length =
      (s.inputBytes.map fun c => (cbEntry cb c).len.toNat).sum := by
    rw [encodeBytes, List.length_flatMap]
    refine congrArg List.sum (List.map_congr_left fun c hc => ?_)
    obtain ⟨n, hn, rfl⟩ := exists_counted_leaf order hc
    exact hlen n hn
  rw [hcodes, ← sum_countOrder order, leafTotbits, counted_leaves, List.map_map]
  refine congrArg List.sum (List.map_congr_left fun sym _ => ?_)
  have hcount : (BitVec.ofNat 40 (s.inputBytes.count sym)).toNat = s.inputBytes.count sym := by
    have hle := (List.count_le_length (a := sym)).trans_eq (inputBytes_length s)
    have hilen := s.ilen.isLt
    rw [BitVec.toNat_ofNat]
    exact Nat.mod_eq_of_lt (by omega)
  exact congrArg (· * (cbEntry cb sym).len.toNat) hcount.symm

/-- The input is kept by every command but WR and RESET. -/
theorem inputBytes_of_hostWritten {s t : State} (h : t.hostWritten = s.hostWritten) : t.inputBytes = s.inputBytes := by
  obtain ⟨-, hibuf, hilen, -, hepoch⟩ := hostWritten_eq_iff.mp h
  unfold State.inputBytes State.ibufRead
  rw [hibuf, hilen, hepoch]

/-- What HTB.COUNT and HTB.BUILD leave for the serializer. -/
structure CodesInput (u : State) (input : List Byte) : Prop where
  unfaulted : u.faulted = false
  prefixFree : PrefixFree u.cb
  lengths : CodeLengthsOk u.cb
  valid : ∀ c ∈ input, (cbEntry u.cb c).valid = true
  totbits : (encodeBytes u.cb input).length = u.totbits.toNat

/-- An assigned tree over the counted leaves codes the input in TOTBITS bits. -/
theorem assigned_codesInput {s m : State} (order : Bool) (hm : BuilderOk m) (hopen : m.phase ≠ .built)
    (hlast : m.heap.length = 1) (hf : m.faulted = false) (hleaves : m.leaves = (s.counted order).leaves) :
    CodesInput m.assignHuffman s.inputBytes := by
  obtain ⟨k, hk⟩ := List.length_eq_one_iff.mp hlast
  refine ⟨hf, assigned_prefixFree hm hopen hk, assigned_codeLengthsOk hm hopen hk, fun c hc => ?_, ?_⟩
  · obtain ⟨n, hn, rfl⟩ := exists_counted_leaf order hc
    obtain ⟨i, hi⟩ := List.getElem?_of_mem (hleaves ▸ hn)
    rw [assigned_entry hm.leavesOk hk hi]
    rfl
  · rw [assigned_totbits hm hopen hk, hleaves]
    exact encodeBytes_length_counted s order fun n hn => (assigned_len hm hopen hk (hleaves ▸ hn)).2

theorem exec_htbCount {s : State} (order : Bool) (hf : s.faulted = false) :
    exec (.htbCount order) s = .next ((s.counted order).answer 0 (word32 (s.counted order).nleaf)) :=
  runGated_of_success hf (htbCountRule_eq order s)

/-- HTB.BUILD of a table with the counted leaves. -/
theorem build_codesInput {s t : State} (order : Bool) (ht : BuilderOk t) (hopen : t.phase ≠ .built) (hn : t.nleaf ≠ 0)
    (hf : t.faulted = false) (hleaves : t.leaves = (s.counted order).leaves) : CodesInput t.build s.inputBytes := by
  obtain ⟨hm, hmopen, hmlast, hmleaves, -⟩ := mergeAll_builderOk t.heap.length ht hopen
    (one_le_heap_length ht.countsOk hopen hn) (Nat.le_succ _)
  obtain ⟨hmf, -⟩ := registers_of_withRecordOf (mergeAll_record t.heap.length t)
  obtain ⟨hunfaulted, hfree, hlens, hvalid, htotbits⟩ :=
    assigned_codesInput order hm hmopen hmlast (hmf.trans hf) (hmleaves.trans hleaves)
  exact ⟨hunfaulted, hfree, hlens, hvalid, htotbits⟩

theorem counted_nleaf_ne_zero {s : State} (order : Bool) (hne : s.inputBytes ≠ []) : (s.counted order).nleaf ≠ 0 := by
  obtain ⟨c, hc⟩ := List.exists_mem_of_ne_nil _ hne
  obtain ⟨n, hmem, -⟩ := exists_counted_leaf order hc
  rw [← leaves_length (counted_builderOk s order).leavesOk]
  exact (List.length_pos_of_mem hmem).ne'

theorem succeedAll_count_build {s : State} (order : Bool) (hf : s.faulted = false) (hne : s.inputBytes ≠ []) :
    ∃ u, succeedAll [.htbCount order, .htbBuild] s = some u ∧ u.hostWritten = s.hostWritten ∧
      CodesInput u s.inputBytes := by
  have hcount := exec_htbCount order hf
  generalize word32 (s.counted order).nleaf = d at hcount
  obtain ⟨hload, hft⟩ := counted_load s order
  have hb : BuilderOk ((s.counted order).answer 0 d) := counted_builderOk s order
  have hopen : ((s.counted order).answer 0 d).phase ≠ .built := by simp [hload]
  have hn : ((s.counted order).answer 0 d).nleaf ≠ 0 := counted_nleaf_ne_zero order hne
  have hft : ((s.counted order).answer 0 d).faulted = false := hft.trans hf
  have hbuild := exec_htbBuild hft hopen hn
  exact ⟨_, (succeedAll_cons hcount (answer_err _ _ _)).trans (succeedAll_cons hbuild (answer_err _ _ _)),
    (exec_hostWritten (by simp) (by simp) hbuild).trans (exec_hostWritten (by simp) (by simp) hcount),
    build_codesInput order hb hopen hn hft rfl⟩

/-- Settles O40: no built code begins another, every input byte has one, and together they take TOTBITS bits. -/
theorem huffmanFlowRoundTrips : Obligations.HuffmanFlowRoundTrips := by
  intro s order hf hone hroom
  have hne : s.inputBytes ≠ [] := List.ne_nil_of_length_pos (by rw [inputBytes_length]; exact hone)
  obtain ⟨u, hu, hkept, hunfaulted, hfree, hlens, hvalid, htotbits⟩ := succeedAll_count_build order hf hne
  obtain ⟨hcfg, -, hilen, -⟩ := hostWritten_eq_iff.mp hkept
  rw [← inputBytes_of_hostWritten hkept] at hvalid htotbits ⊢
  refine ⟨u, hu, fun hfits => ⟨_, succeedAll_clr_enc_dec hunfaulted hfree hlens hvalid (htotbits.trans_le hfits)
    (by rw [hilen, hcfg]; exact hroom), htotbits, rfl⟩⟩

end Sys2Proof.Machine
end
